-- ==== Sys2Proof/Word.lean ====
section
/-! DEFINITION. The word, the byte, and the names of the eight general registers. -/

namespace Sys2Proof

/-- The universal unit of memory, register content and instruction encoding (rule R9). Addition is modulo 65536. -/
abbrev Word := BitVec 16

/-- One byte of the input, output or echo stream (rules R34 to R36). -/
abbrev Byte := BitVec 8

/-- The eight general registers, a closed enumeration (rules R20, R21). PC and COND are slots of their own in State. -/
inductive Reg where
  | r0 | r1 | r2 | r3 | r4 | r5 | r6 | r7
  deriving DecidableEq, Repr

end Sys2Proof
end

