-- ==== Sys2Proof/Config.lean ====
section
/-! DEFINITION. The type of the one configuration record (rule R7), the values the spec leaves open, and the free
answers of the environment. The record's values stand in Machine/Params.lean. -/

namespace Sys2Proof

/-- The sixteen entries of the opcode table, by name (rule R86). -/
inductive Opcode where
  | br | add | ld | st | jsr | and | ldr | str | rti | not | ldi | sti | jmp | reserved | lea | trap
  deriving DecidableEq, Repr

/-- The six entries of the trap dispatch table, by name (rules R88, R171). -/
inductive TrapService where
  | getc | out | puts | inp | putsp | halt
  deriving DecidableEq, Repr

/-- What a zero input byte does to the keyboard-data word (rule R54, decision D11: both readings are admitted). -/
inductive KbdrOnZero where
  | unchanged
  | cleared
  deriving DecidableEq, Repr, Inhabited

/-- The underlying cause of an I/O failure: opaque to the core, no rule reads it (rules R211, R212). -/
abbrev Cause := Nat

/-- The answer to one `InByte()` request (rule R34). -/
inductive InAnswer where
  | byte (b : Byte)
  | fail (cause : Cause)
  deriving DecidableEq, Repr, Inhabited

/-- The answer to one `OutByte(b)` or `EchoByte(b)` event (rules R35, R36). -/
inductive OutAnswer where
  | ok
  | fail (cause : Cause)
  deriving DecidableEq, Repr, Inhabited

/-- The configuration record: every named parameter of rule R7 but `image`, which is an argument of reset. -/
structure Config where
  /-- `OPC_<mnemonic>`: the 4-bit number of each opcode (D1). -/
  opcode : Opcode → BitVec 4
  /-- `VEC_<name>`: the trap vector of each service (D7). -/
  vector : TrapService → BitVec 8
  /-- Lowest bit of DR, and of SR of ST, STI and STR (D2). -/
  posDR : Nat
  /-- Lowest bit of SR1, of SR of NOT and of BaseR (D2). -/
  posSR1 : Nat
  /-- Lowest bit of SR2 (D2). -/
  posSR2 : Nat
  /-- Lowest bit of imm5, offset6, PCoffset9, PCoffset11 and trapvect8 (D2, rule R84). -/
  posImm : Nat
  /-- The mode bit of ADD and AND (D3). -/
  posMode : Nat
  /-- The mode bit of JSR and JSRR (D3). -/
  posJsrMode : Nat
  /-- The n, z and p bits of BR's condition mask (D4). -/
  posN : Nat
  posZ : Nat
  posP : Nat
  /-- The three tags of COND (D5). -/
  flPos : Word
  flZero : Word
  flNeg : Word
  /-- The two device addresses and the "available" word (D6). -/
  kbsrAddr : Word
  kbdrAddr : Word
  available : Word
  /-- `KBDR_ON_ZERO` (D11, open). -/
  kbdrOnZero : KbdrOnZero
  /-- `IN_PROMPT` (D13, open). -/
  inPrompt : List Byte

/-- `KBDR_ON_ZERO`, open in the spec (D11): no value can be proved of it. Assumption log 6. -/
opaque Config.openKbdrOnZero : KbdrOnZero

/-- `IN_PROMPT`, open in the spec (D13): no value can be proved of it. Assumption log 7. -/
opaque Config.openInPrompt : List Byte

/-- The environment's answer to the n-th `InByte()` where State says the answers are free (rule R34, U10). Log 8. -/
opaque Config.freeInput : Nat → InAnswer

/-- The environment's answer to the n-th `OutByte` where State says the answers are free (rule R35, U15). Log 8. -/
opaque Config.freeOutput : Nat → OutAnswer

/-- The environment's answer to the n-th `EchoByte` where State says the answers are free (rule R36, U15). Log 8. -/
opaque Config.freeEcho : Nat → OutAnswer

end Sys2Proof
end

