-- ==== Sys2Proof/Machine/Params.lean ====
section
/-! DEFINITION. The one configuration record's values (rule R7) and the two tables the hardware dispatches through. -/

namespace Sys2Proof.Machine

/-- The value of every named parameter, as the spec decides it (92_eei_decisions.md D1 to D7; D11 and D13 stay open).
PRESUMED: the published LC-3 numbers, which the spec adopts as decisions. Assumption log 1. -/
def params : Config where
  opcode := fun
    | .br => 0b0000 | .add => 0b0001 | .ld => 0b0010 | .st => 0b0011
    | .jsr => 0b0100 | .and => 0b0101 | .ldr => 0b0110 | .str => 0b0111
    | .rti => 0b1000 | .not => 0b1001 | .ldi => 0b1010 | .sti => 0b1011
    | .jmp => 0b1100 | .reserved => 0b1101 | .lea => 0b1110 | .trap => 0b1111
  vector := fun
    | .getc => 0x20 | .out => 0x21 | .puts => 0x22 | .inp => 0x23 | .putsp => 0x24 | .halt => 0x25
  posDR := 9
  posSR1 := 6
  posSR2 := 0
  posImm := 0
  posMode := 5
  posJsrMode := 11
  posN := 11
  posZ := 10
  posP := 9
  flPos := 0x0001
  flZero := 0x0002
  flNeg := 0x0004
  kbsrAddr := 0xFE00
  kbdrAddr := 0xFE02
  available := 0x8000
  kbdrOnZero := Config.openKbdrOnZero
  inPrompt := Config.openInPrompt

/-- The sixteen opcodes, in the order of rule R86. -/
def opcodes : List Opcode :=
  [.br, .add, .ld, .st, .jsr, .and, .ldr, .str, .rti, .not, .ldi, .sti, .jmp, .reserved, .lea, .trap]

/-- The opcode table's lookup (rule R111 part 3). All sixteen values are assigned (rule R80), so the default of the
search is never taken (Laws/Decode.lean, opcode_opcodeOf). -/
def opcodeOf (op : BitVec 4) : Opcode :=
  (opcodes.find? fun o => params.opcode o == op).getD .reserved

/-- The six trap services, in the order of rule R88. -/
def services : List TrapService := [.getc, .out, .puts, .inp, .putsp, .halt]

/-- The trap dispatch table's lookup: none for the 250 vectors with no handler (rules R88, R183). -/
def serviceOf (v : BitVec 8) : Option TrapService :=
  services.find? fun t => params.vector t == v

end Sys2Proof.Machine
end

