-- ==== Sys2Proof/Machine/State.lean ====
section
/-! DEFINITION. The state of the machine as plain data (rules R20 to R43, R50), why a step stops, and the state right
after reset (rules R42, R240). -/

namespace Sys2Proof.Machine

/-- The three fatal errors, exactly the constructors of rule R211. A step that raises one answers a NEXT state whose run
state is FAILED with it (rule R210); `step` answers `.fault` only AT a state that has already FAILED, since no step
leaves a terminal state (rule R118). Safe: the stop is the spec's own. -/
inductive Fault where
  /-- Raised by RTI and the reserved opcode at dispatch (rules R200, R201); carries the opcode. Safe: it is the spec's stop. -/
  | unhandledOpcode (op : BitVec 4)
  /-- Raised by TRAP with a vector that has no handler, after R7 is written (rule R183). Safe: it is the spec's stop. -/
  | unrecognizedTrap (vect : BitVec 8)
  /-- Raised where a stream operation answers Fail (rule R213); carries the cause. Safe: it is the spec's stop. -/
  | ioFailure (cause : Cause)
  deriving DecidableEq, Repr

/-- Why a step has no successor although nothing failed. -/
inductive Refusal where
  /-- An instruction with no meaning yet; exec's arms alone may answer it, and none does. Safe. -/
  | notModelled (mnemonic : String)
  /-- Answered by `step` at a HALTED state: the clean stop takes no further step (rule R118). Safe: it is the spec's. -/
  | halted
  /-- Answered where an `InByte()` request is never answered by the environment: the step never completes (rules R122,
  R222, U12). Safe: the model stops where the hardware waits. -/
  | inputNeverAnswered
  deriving DecidableEq, Repr

/-- The run state of the execution loop (rule R32). -/
inductive RunState where
  | running
  | halted
  | failed (reason : Fault)
  deriving DecidableEq, Repr

/-- The eight general registers (rule R21). -/
structure Regs where
  r0 : Word
  r1 : Word
  r2 : Word
  r3 : Word
  r4 : Word
  r5 : Word
  r6 : Word
  r7 : Word
  deriving DecidableEq, Repr

/-- Memory: (address, word) pairs for the 65536 words of rule R50, the smallest unit the spec addresses. The canonical
form is `Memory.wf` (Machine/Ops.lean). -/
abbrev Memory := List (Nat × Word)

/-- What the environment answers once the answers listed for it are used up. -/
inductive Later (α : Type) where
  /-- The same answer for ever. -/
  | always (a : α)
  /-- A free value: an opaque function of Config applied to the number of answers drawn so far. -/
  | free
  deriving DecidableEq, Repr

/-- The answers of the environment on one stream, as plain data: the ones listed, oldest first, and what follows them.
The answers are the environment's (rules R34 to R36, R43); `drawn` counts the answers given so far (rule R40). -/
structure Supply (α : Type) where
  listed : List α
  later : Later α
  drawn : Nat
  deriving DecidableEq, Repr

/-- The two trap handlers that walk a string (rules R175, R180). -/
inductive StringKind where
  | puts
  | putsp
  deriving DecidableEq, Repr

/-- A PUTS or PUTSP in progress: the handler and its cursor (rule R177). -/
structure StringJob where
  kind : StringKind
  cursor : Word
  deriving DecidableEq, Repr

structure State where
  /-- R0 to R7, slots 0 to 7 of the register file (rules R20, R21). -/
  regs : Regs
  /-- The program counter, slot 8 (rule R24). -/
  pc : Word
  /-- The condition register, slot 9, a 16-bit word (rule R27). -/
  cond : Word
  /-- The 65536 words of memory, the two keyboard words among them (rules R50, R52). -/
  mem : Memory
  /-- The run state (rule R32). -/
  run : RunState
  /-- The PUTS or PUTSP in progress between two of its micro-steps, none otherwise (rule R177, decision D21). -/
  job : Option StringJob
  /-- The answers to come on the input stream; `none` is a request that is never answered (rules R34, R222). -/
  input : Supply (Option InAnswer)
  /-- The answers to come to `OutByte` (rule R35). -/
  outAnswers : Supply OutAnswer
  /-- The answers to come to `EchoByte` (rule R36). -/
  echoAnswers : Supply OutAnswer
  /-- The bytes emitted on the output stream, oldest first (rules R35, R40). -/
  output : List Byte
  /-- The bytes emitted on the echo channel, oldest first (rules R36, R40). -/
  echo : List Byte
  deriving DecidableEq, Repr

/-- The register file's general registers at reset: zero (rule R42). -/
def Regs.zero : Regs := { r0 := 0, r1 := 0, r2 := 0, r3 := 0, r4 := 0, r5 := 0, r6 := 0, r7 := 0 }

/-- The state right after reset with a memory image (rules R42, R240, R242). The environment's answers are all free. -/
def State.resetWith (image : Memory) : State where
  regs := Regs.zero
  pc := 0x3000
  cond := params.flZero
  mem := image
  run := .running
  job := none
  input := { listed := [], later := .free, drawn := 0 }
  outAnswers := { listed := [], later := .free, drawn := 0 }
  echoAnswers := { listed := [], later := .free, drawn := 0 }
  output := []
  echo := []

/-- The state right after reset with an image of zero words (DESIGN CHOICE: the spec makes the image an argument, rules
R42, R244, D19). Assumption log 5. -/
def State.reset : State := State.resetWith []

end Sys2Proof.Machine
end

