-- ==== Sys2Proof/Machine/Ops.lean ====
section
/-! DEFINITION. The named operations over the state: field updates, registers, memory, the three streams, `MemRead` and
`MemWrite`, raising a fatal error and halting (rules R12, R21, R34 to R36, R50 to R58, R117, R210). -/

namespace Sys2Proof.Machine

/-- What one step answers. -/
abbrev Outcome := Host.Outcome State Fault Refusal

def State.withRegs (s : State) (v : Regs) : State := { s with regs := v }
def State.withPc (s : State) (v : Word) : State := { s with pc := v }
def State.withCond (s : State) (v : Word) : State := { s with cond := v }
def State.withMem (s : State) (v : Memory) : State := { s with mem := v }
def State.withRun (s : State) (v : RunState) : State := { s with run := v }
def State.withJob (s : State) (v : Option StringJob) : State := { s with job := v }
def State.withInput (s : State) (v : Supply (Option InAnswer)) : State := { s with input := v }
def State.withOutAnswers (s : State) (v : Supply OutAnswer) : State := { s with outAnswers := v }
def State.withEchoAnswers (s : State) (v : Supply OutAnswer) : State := { s with echoAnswers := v }
def State.withOutput (s : State) (v : List Byte) : State := { s with output := v }
def State.withEcho (s : State) (v : List Byte) : State := { s with echo := v }

/-- The word of one general register. -/
def Regs.get (g : Regs) (r : Reg) : Word :=
  match r with
  | .r0 => g.r0 | .r1 => g.r1 | .r2 => g.r2 | .r3 => g.r3
  | .r4 => g.r4 | .r5 => g.r5 | .r6 => g.r6 | .r7 => g.r7

/-- The registers with one of them replaced. -/
def Regs.set (g : Regs) (r : Reg) (v : Word) : Regs :=
  match r with
  | .r0 => { g with r0 := v } | .r1 => { g with r1 := v } | .r2 => { g with r2 := v } | .r3 => { g with r3 := v }
  | .r4 => { g with r4 := v } | .r5 => { g with r5 := v } | .r6 => { g with r6 := v } | .r7 => { g with r7 := v }

/-- `x[r]` (rule R21): no general register is hardwired and no access fails. -/
def State.reg (s : State) (r : Reg) : Word := s.regs.get r

/-- `x[r] <- v` (rule R21). -/
def State.setReg (s : State) (r : Reg) (v : Word) : State := s.withRegs (s.regs.set r v)

/-- What an address that memory does not list reads as: the zero word (DESIGN CHOICE, rule R244, D19). Log 5. -/
def Memory.unlisted : Word := 0

/-- The stored word at an address. -/
def Memory.read (m : Memory) (a : Nat) : Word :=
  match m with
  | [] => Memory.unlisted
  | c :: rest => if c.1 = a then c.2 else Memory.read rest a

/-- A cell put before the first one with a higher address. -/
def Memory.insert (m : Memory) (a : Nat) (v : Word) : Memory :=
  match m with
  | [] => [(a, v)]
  | c :: rest => if a < c.1 then (a, v) :: c :: rest else c :: Memory.insert rest a v

/-- The memory with the word at an address replaced, in the canonical form. -/
def Memory.write (m : Memory) (a : Nat) (v : Word) : Memory :=
  let others := m.filter fun c => c.1 != a
  if v = Memory.unlisted then others else Memory.insert others a v

/-- The canonical form: addresses strictly rising and inside the address space, no entry that reads as an unlisted one. -/
abbrev Memory.wf (m : Memory) : Prop :=
  m.Pairwise (fun c d => c.1 < d.1) ∧ ∀ c ∈ m, c.1 < 65536 ∧ c.2 ≠ Memory.unlisted

/-- `mem[a]`: the stored word, with no side effect (rule R50). Every word is an address of the space. -/
def State.memAt (s : State) (a : Word) : Word := s.mem.read a.toNat

/-- `MemWrite(a, v)`: an unconditional store, at the two keyboard words too (rule R56). -/
def memWrite (a v : Word) (s : State) : State := s.withMem (s.mem.write a.toNat v)

/-- `raise <Reason>(info)`: the run state becomes FAILED and everything done so far stays done (rules R119, R210). A
string handler in progress is over. -/
def raise (f : Fault) (s : State) : State := (s.withRun (.failed f)).withJob none

/-- `halt`: the run state becomes HALTED (rule R117). -/
def halt (s : State) : State := s.withRun .halted

/-- The next answer of a stream, and the stream after it. -/
def Supply.draw {α : Type} (free : Nat → α) (q : Supply α) : α × Supply α :=
  match q.listed with
  | a :: rest => (a, { q with listed := rest, drawn := q.drawn + 1 })
  | [] =>
    match q.later with
    | .always a => (a, { q with drawn := q.drawn + 1 })
    | .free => (free q.drawn, { q with drawn := q.drawn + 1 })

/-- The input stream's next answer and the stream after it; a free answer is always an answer (rule R222: the
environment's duty). -/
def State.nextInput (s : State) : Option InAnswer × Supply (Option InAnswer) :=
  s.input.draw fun n => some (Config.freeInput n)

/-- The output stream's next answer and the stream after it (rule R35). -/
def State.nextOut (s : State) : OutAnswer × Supply OutAnswer := s.outAnswers.draw Config.freeOutput

/-- The echo channel's next answer and the channel after it (rule R36). -/
def State.nextEcho (s : State) : OutAnswer × Supply OutAnswer := s.echoAnswers.draw Config.freeEcho

/-- What an operation that may ask the input stream answers: a value or the cause of a failure with the state after it,
or nothing at all, when the request is never answered (rules R34, R53, R222). -/
inductive Res (α : Type) where
  | done (r : Except Cause α) (s : State)
  | blocked

/-- End the step after an operation: `k` on its value; FAILED on a failure (rule R210); no successor when the request is
never answered. -/
def Res.finish {α : Type} (r : Res α) (k : α → State → State) : Outcome :=
  match r with
  | .blocked => .refused .inputNeverAnswered
  | .done e s =>
    .next (match e with
      | .ok a => k a s
      | .error c => raise (.ioFailure c) s)

/-- Go on with the step after an operation, as `Res.finish`, where what follows may itself ask the input stream. -/
def Res.andThen {α : Type} (r : Res α) (k : α → State → Outcome) : Outcome :=
  match r with
  | .blocked => .refused .inputNeverAnswered
  | .done (.ok a) s => k a s
  | .done (.error c) s => .next (raise (.ioFailure c) s)

/-- A byte or the cause of a failure. -/
def answerResult (a : InAnswer) : Except Cause Byte :=
  match a with
  | .byte b => .ok b
  | .fail c => .error c

/-- `InByte()` (rule R34): each answer is consumed. -/
def inByte (s : State) : Res Byte :=
  match s.nextInput with
  | (none, _) => .blocked
  | (some a, q) => .done (answerResult a) (s.withInput q)

/-- `OutByte(b)` (rule R35): the byte is on the output stream unless the answer is a failure, whose cause it answers. -/
def outByte (b : Byte) (s : State) : Option Cause × State :=
  match s.nextOut with
  | (.ok, q) => (none, (s.withOutAnswers q).withOutput (s.output ++ [b]))
  | (.fail c, q) => (some c, s.withOutAnswers q)

/-- `OutByte` of each byte in order, up to the first failure (rules R178, R180). -/
def outBytes (bs : List Byte) (s : State) : Option Cause × State :=
  match bs with
  | [] => (none, s)
  | b :: rest =>
    match outByte b s with
    | (none, t) => outBytes rest t
    | (some c, t) => (some c, t)

/-- `EchoByte(b)` (rule R36): a channel of its own; the byte is neither output nor later input. DESIGN CHOICE: a byte whose
answer is a failure is not on the channel (the spec says so of `OutByte` alone). Assumption log 22. -/
def echoByte (b : Byte) (s : State) : Option Cause × State :=
  match s.nextEcho with
  | (.ok, q) => (none, (s.withEchoAnswers q).withEcho (s.echo ++ [b]))
  | (.fail c, q) => (some c, s.withEchoAnswers q)

/-- After writes to a stream: FAILED where one failed (rule R210), `k` otherwise. -/
def afterWrites (r : Option Cause × State) (k : State → State) : State :=
  match r.1 with
  | none => k r.2
  | some c => raise (.ioFailure c) r.2

/-- `zext_8` (rule R11). -/
def zext8 (b : Byte) : Word := b.setWidth 16

/-- The keyboard device's update of its two words for a byte read (rules R53, R54). -/
def keyboardUpdate (b : Byte) (s : State) : State :=
  if b = 0 then
    match params.kbdrOnZero with
    | .unchanged => memWrite params.kbsrAddr 0 s
    | .cleared => memWrite params.kbdrAddr 0 (memWrite params.kbsrAddr 0 s)
  else memWrite params.kbdrAddr (zext8 b) (memWrite params.kbsrAddr params.available s)

/-- The value `MemRead(KBSR_ADDR)` answers after the device's update: the status word (rule R53). -/
def keyboardRead (r : Except Cause Byte) (s : State) : Res Word :=
  match r with
  | .ok b => .done (.ok ((keyboardUpdate b s).memAt params.kbsrAddr)) (keyboardUpdate b s)
  | .error c => .done (.error c) s

/-- `MemRead(a)` (rules R53, R55, R57, R58): every read of the core, the fetch's too. -/
def memRead (a : Word) (s : State) : Res Word :=
  if a = params.kbsrAddr then
    match inByte s with
    | .blocked => .blocked
    | .done r t => keyboardRead r t
  else .done (.ok (s.memAt a)) s

end Sys2Proof.Machine
end

