-- ==== Sys2Proof/Machine/Operands.lean ====
section
/-! DEFINITION. The operand forms: sign extension, the second operand of ADD and AND, and the three addressing modes
(rules R10, R84, R85, R150). `pc` is the incremented PC, as every handler sees it (rule R24). -/

namespace Sys2Proof.Machine

/-- `sext_n(f)` (rule R10): where bit n-1 of the field is set, all bits above it are set in the 16-bit result. -/
def sext {n : Nat} (f : BitVec n) : Word :=
  if f.getLsbD (n - 1) then f.setWidth 16 + BitVec.ofNat 16 (65536 - 2 ^ n) else f.setWidth 16

/-- The operand of register mode (rule R131). -/
def regOperand (r : Reg) (s : State) : Word := s.reg r

/-- The operand of immediate mode (rule R131). -/
def immOperand (imm5 : BitVec 5) : Word := sext imm5

/-- `pc + sext_n(offset)`: the PC-relative address or target (rules R141, R143, R150). -/
def pcRelative {n : Nat} (off : BitVec n) (s : State) : Word := s.pc + sext off

/-- `x[BaseR] + sext_6(offset6)`: the base-plus-offset address (rule R150). -/
def baseOffset (base : Reg) (off : BitVec 6) (s : State) : Word := s.reg base + sext off

/-- `w[7:0]`. -/
def lowByte (w : Word) : Byte := w.extractLsb' 0 8

/-- `w[15:8]`. -/
def highByte (w : Word) : Byte := w.extractLsb' 8 8

end Sys2Proof.Machine
end

