-- ==== Sys2Proof/Machine/Flags.lean ====
section
/-! DEFINITION. The condition flags (rules R27 to R30, R135): the tag of a word, `setcc`, the write of a result with its
flags, and BR's test. -/

namespace Sys2Proof.Machine

/-- The tag that stands for a word's sign (rule R28). -/
def tagOf (v : Word) : Word :=
  if v = 0 then params.flZero
  else if v.getLsbD 15 then params.flNeg
  else params.flPos

/-- `setcc(r)`: COND is recomputed from the register's current word; nothing of the old tag remains (rule R28). -/
def setcc (r : Reg) (s : State) : State := s.withCond (tagOf (s.reg r))

/-- `x[r] <- v`, then `setcc(r)`: how every data instruction ends (rule R29). -/
def writeResult (r : Reg) (v : Word) (s : State) : State := setcc r (s.setReg r v)

/-- BR's condition mask as the number `ir[11:9]` (rule R85). -/
def maskWord (n z p : Bool) : Word :=
  (BitVec.ofBool n).setWidth 16 <<< 2 ||| (BitVec.ofBool z).setWidth 16 <<< 1 ||| (BitVec.ofBool p).setWidth 16

/-- BR's test: `(ir[11:9] & cond) != 0` (rule R141). -/
def branchTaken (n z p : Bool) (s : State) : Bool := maskWord n z p &&& s.cond != 0

end Sys2Proof.Machine
end

