-- ==== Sys2Proof/Machine/Control.lean ====
section
/-! DEFINITION. BR, JMP, JSR and JSRR (rules R140 to R145). None of them writes COND. -/

namespace Sys2Proof.Machine

/-- `x[7] <- pc`: the link write of JSR, JSRR and TRAP, which leaves COND alone (rules R22, R29). -/
def link (s : State) : State := s.setReg .r7 s.pc

/-- BR (rule R141). -/
def execBr (n z p : Bool) (off : BitVec 9) (s : State) : Outcome :=
  .next (if branchTaken n z p s then s.withPc (pcRelative off s) else s)

/-- JMP (rule R142). -/
def execJmp (base : Reg) (s : State) : Outcome :=
  .next (s.withPc (s.reg base))

/-- JSR: the link, then the PC-relative target (rule R143). -/
def execJsr (off : BitVec 11) (s : State) : Outcome :=
  .next ((link s).withPc (pcRelative off (link s)))

/-- JSRR: the link is written before the base register is read (rule R144). -/
def execJsrr (base : Reg) (s : State) : Outcome :=
  .next ((link s).withPc ((link s).reg base))

end Sys2Proof.Machine
end

