-- ==== Sys2Proof/Machine/LoadStore.lean ====
section
/-! DEFINITION. LD, LDI, LDR, LEA, ST, STI and STR (rules R150 to R157). -/

namespace Sys2Proof.Machine

/-- `x[DR] <- MemRead(a)`, then `setcc(DR)` (rules R151 to R153). -/
def load (dr : Reg) (a : Word) (s : State) : Outcome :=
  (memRead a s).finish fun w t => writeResult dr w t

/-- LD (rule R151). -/
def execLd (dr : Reg) (off : BitVec 9) (s : State) : Outcome :=
  load dr (pcRelative off s) s

/-- LDI: the pointer, then the data, each through `MemRead` (rule R152). -/
def execLdi (dr : Reg) (off : BitVec 9) (s : State) : Outcome :=
  (memRead (pcRelative off s) s).andThen fun p t => load dr p t

/-- LDR: the address comes from the base before DR is written (rule R153). -/
def execLdr (dr base : Reg) (off : BitVec 6) (s : State) : Outcome :=
  load dr (baseOffset base off s) s

/-- LEA: no memory access; COND is written from the address (rule R154). -/
def execLea (dr : Reg) (off : BitVec 9) (s : State) : Outcome :=
  .next (writeResult dr (pcRelative off s) s)

/-- ST (rule R155). -/
def execSt (sr : Reg) (off : BitVec 9) (s : State) : Outcome :=
  .next (memWrite (pcRelative off s) (s.reg sr) s)

/-- STI: one read of the pointer, then one write (rule R156). -/
def execSti (sr : Reg) (off : BitVec 9) (s : State) : Outcome :=
  (memRead (pcRelative off s) s).finish fun p t => memWrite p (t.reg sr) t

/-- STR (rule R157). -/
def execStr (sr base : Reg) (off : BitVec 6) (s : State) : Outcome :=
  .next (memWrite (baseOffset base off s) (s.reg sr) s)

end Sys2Proof.Machine
end

