-- ==== Sys2Proof/Machine/Operate.lean ====
section
/-! DEFINITION. ADD, AND and NOT (rules R130 to R135). -/

namespace Sys2Proof.Machine

/-- ADD, register mode (rule R131). -/
def execAddReg (dr sr1 sr2 : Reg) (s : State) : Outcome :=
  .next (writeResult dr (s.reg sr1 + regOperand sr2 s) s)

/-- ADD, immediate mode (rule R131). -/
def execAddImm (dr sr1 : Reg) (imm5 : BitVec 5) (s : State) : Outcome :=
  .next (writeResult dr (s.reg sr1 + immOperand imm5) s)

/-- AND, register mode (rule R132). -/
def execAndReg (dr sr1 sr2 : Reg) (s : State) : Outcome :=
  .next (writeResult dr (s.reg sr1 &&& regOperand sr2 s) s)

/-- AND, immediate mode: the immediate is sign-extended too (rule R132). -/
def execAndImm (dr sr1 : Reg) (imm5 : BitVec 5) (s : State) : Outcome :=
  .next (writeResult dr (s.reg sr1 &&& immOperand imm5) s)

/-- NOT (rule R133). -/
def execNot (dr sr : Reg) (s : State) : Outcome :=
  .next (writeResult dr (~~~(s.reg sr)) s)

end Sys2Proof.Machine
end

