-- ==== Sys2Proof/Machine/Trap.lean ====
section
/-! DEFINITION. TRAP: its entry, its six services and the vectors with no handler (rules R170 to R184, R217). The walk
of PUTS and PUTSP is one micro-step per word (rule R177). -/

namespace Sys2Proof.Machine

/-- Trap entry saves one thing: the incremented PC in R7, before the vector is examined (rules R170, R217). -/
def trapEntry (s : State) : State := link s

/-- A byte read is stored zero-extended in R0, then `setcc(0)` (rules R173, R178). -/
def storeByte (b : Byte) (s : State) : State := writeResult .r0 (zext8 b) s

/-- GETC's handler: one byte from the input stream, no echo (rule R173). -/
def serviceGetc (s : State) : Outcome :=
  (inByte s).finish storeByte

/-- OUT's handler: the low byte of R0, whatever it is (rule R174). -/
def serviceOut (s : State) : Outcome :=
  .next (afterWrites (outByte (lowByte (s.reg .r0)) s) id)

/-- PUTS's and PUTSP's handler before its first word: the cursor is x[0]; R0 itself stays (rules R175, R177, R180). -/
def serviceString (kind : StringKind) (s : State) : Outcome :=
  .next (s.withJob (some { kind := kind, cursor := s.reg .r0 }))

/-- IN after its byte was read: the echo, then the store (rule R178). -/
def echoAndStore (b : Byte) (s : State) : State :=
  afterWrites (echoByte b s) (storeByte b)

/-- IN once its byte's answer is known: the prompt, then the read, then the echo and the store, up to the first failure
(rule R178). The answer is drawn only where the prompt was written whole. -/
def promptThen (prompt : List Byte) (r : Except Cause Byte) (q : Supply (Option InAnswer)) (s : State) : State :=
  afterWrites (outBytes prompt s) fun t =>
    match r with
    | .ok b => echoAndStore b (t.withInput q)
    | .error c => raise (.ioFailure c) (t.withInput q)

/-- IN's handler where the read is never answered: the prompt may fail first; else the step never completes. -/
def promptThenWait (prompt : List Byte) (s : State) : Outcome :=
  match outBytes prompt s with
  | (some c, t) => .next (raise (.ioFailure c) t)
  | (none, _) => .refused .inputNeverAnswered

/-- IN's handler with any prompt (rules R178, R179). Writing the prompt does not touch the input stream, so the stream's
answer is looked at first; Laws/Ops.lean, serviceInWith_in_order, shows that this is the order of rule R178. -/
def serviceInWith (prompt : List Byte) (s : State) : Outcome :=
  match s.nextInput with
  | (some a, q) => .next (promptThen prompt (answerResult a) q s)
  | (none, _) => promptThenWait prompt s

/-- IN's handler: the prompt is the open parameter `IN_PROMPT` (rule R179). -/
def serviceIn (s : State) : Outcome := serviceInWith params.inPrompt s

/-- HALT's handler: nothing but the run state (rule R182). -/
def serviceHalt (s : State) : Outcome :=
  .next (halt s)

/-- No handler: UnrecognizedTrap (rule R183). -/
def serviceNone (vect : BitVec 8) (s : State) : Outcome :=
  .next (raise (.unrecognizedTrap vect) s)

/-- The generic TRAP row: entry, then the dispatch on the vector (rule R170). -/
def execTrap (vect : BitVec 8) (s : State) : Outcome :=
  match serviceOf vect with
  | some .getc => serviceGetc (trapEntry s)
  | some .out => serviceOut (trapEntry s)
  | some .puts => serviceString .puts (trapEntry s)
  | some .inp => serviceIn (trapEntry s)
  | some .putsp => serviceString .putsp (trapEntry s)
  | some .halt => serviceHalt (trapEntry s)
  | none => serviceNone vect (trapEntry s)

/-- TRAP x20, GETC (rule R173). -/
def execTrapGetc (s : State) : Outcome := serviceGetc (trapEntry s)

/-- TRAP x21, OUT (rule R174). -/
def execTrapOut (s : State) : Outcome := serviceOut (trapEntry s)

/-- TRAP x22, PUTS (rule R175). -/
def execTrapPuts (s : State) : Outcome := serviceString .puts (trapEntry s)

/-- TRAP x23, IN (rule R178). -/
def execTrapIn (s : State) : Outcome := serviceIn (trapEntry s)

/-- TRAP x24, PUTSP (rule R180). -/
def execTrapPutsp (s : State) : Outcome := serviceString .putsp (trapEntry s)

/-- TRAP x25, HALT (rule R182). -/
def execTrapHalt (s : State) : Outcome := serviceHalt (trapEntry s)

/-- TRAP with a vector that has no handler (rule R183). -/
def execTrapOther (vect : BitVec 8) (s : State) : Outcome := serviceNone vect (trapEntry s)

/-- The bytes a non-zero word gives: its low byte; under PUTSP also its high byte unless that is zero (rules R175, R180). -/
def stringBytes (kind : StringKind) (w : Word) : List Byte :=
  match kind with
  | .puts => [lowByte w]
  | .putsp => if highByte w = 0 then [lowByte w] else [lowByte w, highByte w]

/-- One micro-step once its word is read: a zero word ends the trap; any other is emitted and the cursor moves on,
modulo 65536 (rules R175 to R177, R180). -/
def stringWord (j : StringJob) (w : Word) (s : State) : State :=
  if w = 0 then s.withJob none
  else afterWrites (outBytes (stringBytes j.kind w) s) fun t => t.withJob (some { j with cursor := j.cursor + 1 })

/-- One micro-step of PUTS or PUTSP: one `MemRead` at the cursor and the writes for that word (rule R177). -/
def stringStep (j : StringJob) (s : State) : Outcome :=
  (memRead j.cursor s).finish (stringWord j)

end Sys2Proof.Machine
end

