-- ==== Sys2Proof/Machine/Unimplemented.lean ====
section
/-! DEFINITION. The two opcodes with no handler (rules R200 to R202): the dispatch raises UnhandledOpcode. -/

namespace Sys2Proof.Machine

/-- RTI (rule R200). -/
def execRti (s : State) : Outcome := .next (raise (.unhandledOpcode (params.opcode .rti)) s)

/-- The reserved opcode (rule R201). -/
def execReserved (s : State) : Outcome := .next (raise (.unhandledOpcode (params.opcode .reserved)) s)

end Sys2Proof.Machine
end

