-- ==== Sys2Proof/Syntax.lean ====
section
/-! DEFINITION. The instructions: one constructor per row of spec/opcode_table.json (rules R87, R88). A register field
is a `Reg`, an immediate or offset is the field's own bits, and the bits in no field are not kept (rule R89). -/

namespace Sys2Proof

inductive Instr where
  /-- ADD, register mode (R131). -/
  | addReg (dr sr1 sr2 : Reg)
  /-- ADD, immediate mode (R131). -/
  | addImm (dr sr1 : Reg) (imm5 : BitVec 5)
  /-- AND, register mode (R132). -/
  | andReg (dr sr1 sr2 : Reg)
  /-- AND, immediate mode (R132). -/
  | andImm (dr sr1 : Reg) (imm5 : BitVec 5)
  /-- NOT (R133). -/
  | not (dr sr : Reg)
  /-- BR with its condition mask n, z, p (R141). -/
  | br (n z p : Bool) (off : BitVec 9)
  /-- JMP; RET when the register is R7 (R142). -/
  | jmp (base : Reg)
  /-- JSR, PC-relative (R143). -/
  | jsr (off : BitVec 11)
  /-- JSRR, through a register (R144). -/
  | jsrr (base : Reg)
  /-- LD (R151). -/
  | ld (dr : Reg) (off : BitVec 9)
  /-- LDI (R152). -/
  | ldi (dr : Reg) (off : BitVec 9)
  /-- LDR (R153). -/
  | ldr (dr base : Reg) (off : BitVec 6)
  /-- LEA (R154). -/
  | lea (dr : Reg) (off : BitVec 9)
  /-- ST (R155). -/
  | st (sr : Reg) (off : BitVec 9)
  /-- STI (R156). -/
  | sti (sr : Reg) (off : BitVec 9)
  /-- STR (R157). -/
  | str (sr base : Reg) (off : BitVec 6)
  /-- The generic TRAP row (R170): a trap by its vector, before the second dispatch. Its words are exactly those of the
  seven rows below, and the decoder answers the row below that the vector names. Assumption log 3. -/
  | trap (vect : BitVec 8)
  /-- TRAP x20, GETC (R173). -/
  | trapGetc
  /-- TRAP x21, OUT (R174). -/
  | trapOut
  /-- TRAP x22, PUTS (R175). -/
  | trapPuts
  /-- TRAP x23, IN (R178). -/
  | trapIn
  /-- TRAP x24, PUTSP (R180). -/
  | trapPutsp
  /-- TRAP x25, HALT (R182). -/
  | trapHalt
  /-- TRAP with a vector that has no handler (R183). -/
  | trapOther (vect : BitVec 8)
  /-- RTI, unimplemented (R200). -/
  | rti
  /-- The reserved opcode 1101, unimplemented (R201). -/
  | reserved
  deriving DecidableEq, Repr

end Sys2Proof
end

