-- ==== Sys2Proof/WellFormed.lean ====
section
/-! DEFINITION. The one check the types of Instr do not make themselves: a trap with no handler has none of the six
vectors (rules R88, R183). Every register field and every immediate value is valid (rules R83, R90). -/

namespace Sys2Proof

/-- The instruction is one some word stands for under its own row. -/
def Instr.wellFormed (i : Instr) : Bool :=
  match i with
  | .addReg _ _ _ => true
  | .addImm _ _ _ => true
  | .andReg _ _ _ => true
  | .andImm _ _ _ => true
  | .not _ _ => true
  | .br _ _ _ _ => true
  | .jmp _ => true
  | .jsr _ => true
  | .jsrr _ => true
  | .ld _ _ => true
  | .ldi _ _ => true
  | .ldr _ _ _ => true
  | .lea _ _ => true
  | .st _ _ => true
  | .sti _ _ => true
  | .str _ _ _ => true
  | .trap _ => true
  | .trapGetc => true
  | .trapOut => true
  | .trapPuts => true
  | .trapIn => true
  | .trapPutsp => true
  | .trapHalt => true
  | .trapOther v => (Machine.serviceOf v).isNone
  | .rti => true
  | .reserved => true

end Sys2Proof
end

