-- ==== Sys2Proof/Decode.lean ====
section
/-! DEFINITION. The decoder, total on all 65536 words (rules R80 to R91), the encoder that writes the canonical value
of every bit in no field (rule R87), and the host's view of the decoder. No word is rejected: rule R90 gives every
word exactly one row, and the words that stop the machine are instructions whose effect is the stop. -/

namespace Sys2Proof

/-- The register a 3-bit field names: all eight values are valid (rule R83). -/
def regOfBits (b : BitVec 3) : Reg :=
  if b = 0 then .r0 else if b = 1 then .r1 else if b = 2 then .r2 else if b = 3 then .r3
  else if b = 4 then .r4 else if b = 5 then .r5 else if b = 6 then .r6 else .r7

/-- The number of a register (rule R20). -/
def regBits (r : Reg) : BitVec 3 :=
  match r with
  | .r0 => 0 | .r1 => 1 | .r2 => 2 | .r3 => 3 | .r4 => 4 | .r5 => 5 | .r6 => 6 | .r7 => 7

/-- `ir[15:12]`, the opcode field, whose place D0 itself fixes (rule R80). -/
def opField (ir : Word) : BitVec 4 := ir.extractLsb' 12 4

/-- DR, and SR of the three stores: `ir[11:9]` (rule R83). -/
def drField (ir : Word) : Reg := regOfBits (ir.extractLsb' Machine.params.posDR 3)

/-- SR1, SR of NOT, BaseR: `ir[8:6]` (rule R83). -/
def sr1Field (ir : Word) : Reg := regOfBits (ir.extractLsb' Machine.params.posSR1 3)

/-- SR2: `ir[2:0]` (rule R83). -/
def sr2Field (ir : Word) : Reg := regOfBits (ir.extractLsb' Machine.params.posSR2 3)

/-- An immediate, an offset or a trap vector: the low `n` bits (rules R84, R85). -/
def immField (n : Nat) (ir : Word) : BitVec n := ir.extractLsb' Machine.params.posImm n

/-- The second dispatch of TRAP: the row of the opcode table that a vector names (rules R88, R170). -/
def trapRow (v : BitVec 8) : Instr :=
  match Machine.serviceOf v with
  | some .getc => .trapGetc
  | some .out => .trapOut
  | some .puts => .trapPuts
  | some .inp => .trapIn
  | some .putsp => .trapPutsp
  | some .halt => .trapHalt
  | none => .trapOther v

/-- The decoding algorithm of rule R91. Only the fields are kept, so the bits in no field are ignored (rule R89). -/
def decode (ir : Word) : Instr :=
  match Machine.opcodeOf (opField ir) with
  | .br => .br (ir.getLsbD Machine.params.posN) (ir.getLsbD Machine.params.posZ) (ir.getLsbD Machine.params.posP) (immField 9 ir)
  | .add =>
    if ir.getLsbD Machine.params.posMode then .addImm (drField ir) (sr1Field ir) (immField 5 ir)
    else .addReg (drField ir) (sr1Field ir) (sr2Field ir)
  | .ld => .ld (drField ir) (immField 9 ir)
  | .st => .st (drField ir) (immField 9 ir)
  | .jsr => if ir.getLsbD Machine.params.posJsrMode then .jsr (immField 11 ir) else .jsrr (sr1Field ir)
  | .and =>
    if ir.getLsbD Machine.params.posMode then .andImm (drField ir) (sr1Field ir) (immField 5 ir)
    else .andReg (drField ir) (sr1Field ir) (sr2Field ir)
  | .ldr => .ldr (drField ir) (sr1Field ir) (immField 6 ir)
  | .str => .str (drField ir) (sr1Field ir) (immField 6 ir)
  | .rti => .rti
  | .not => .not (drField ir) (sr1Field ir)
  | .ldi => .ldi (drField ir) (immField 9 ir)
  | .sti => .sti (drField ir) (immField 9 ir)
  | .jmp => .jmp (sr1Field ir)
  | .reserved => .reserved
  | .lea => .lea (drField ir) (immField 9 ir)
  | .trap => trapRow (immField 8 ir)

/-- A field placed in a word with its lowest bit at `pos`, every other bit zero. -/
def place {n : Nat} (pos : Nat) (f : BitVec n) : Word := f.setWidth 16 <<< pos

/-- The opcode field of an instruction word. -/
def placeOp (o : Opcode) : Word := place 12 (Machine.params.opcode o)

/-- DR, or SR of a store. -/
def placeDr (r : Reg) : Word := place Machine.params.posDR (regBits r)

/-- SR1, SR of NOT, or BaseR. -/
def placeSr1 (r : Reg) : Word := place Machine.params.posSR1 (regBits r)

/-- SR2. -/
def placeSr2 (r : Reg) : Word := place Machine.params.posSR2 (regBits r)

/-- An immediate, an offset or a trap vector. -/
def placeImm {n : Nat} (f : BitVec n) : Word := place Machine.params.posImm f

/-- A single bit: a mode bit or one bit of BR's mask. -/
def placeBit (pos : Nat) (b : Bool) : Word := place pos (BitVec.ofBool b)

/-- The canonical word of an instruction (rule R87): a bit in no field is 0, but bits 5 to 0 of NOT are ones. -/
def encode (i : Instr) : Word :=
  match i with
  | .addReg dr sr1 sr2 => placeOp .add ||| placeDr dr ||| placeSr1 sr1 ||| placeSr2 sr2
  | .addImm dr sr1 imm => placeOp .add ||| placeDr dr ||| placeSr1 sr1 ||| placeBit Machine.params.posMode true ||| placeImm imm
  | .andReg dr sr1 sr2 => placeOp .and ||| placeDr dr ||| placeSr1 sr1 ||| placeSr2 sr2
  | .andImm dr sr1 imm => placeOp .and ||| placeDr dr ||| placeSr1 sr1 ||| placeBit Machine.params.posMode true ||| placeImm imm
  | .not dr sr => placeOp .not ||| placeDr dr ||| placeSr1 sr ||| 0x003F
  | .br n z p off =>
    placeOp .br ||| placeBit Machine.params.posN n ||| placeBit Machine.params.posZ z ||| placeBit Machine.params.posP p ||| placeImm off
  | .jmp base => placeOp .jmp ||| placeSr1 base
  | .jsr off => placeOp .jsr ||| placeBit Machine.params.posJsrMode true ||| placeImm off
  | .jsrr base => placeOp .jsr ||| placeSr1 base
  | .ld dr off => placeOp .ld ||| placeDr dr ||| placeImm off
  | .ldi dr off => placeOp .ldi ||| placeDr dr ||| placeImm off
  | .ldr dr base off => placeOp .ldr ||| placeDr dr ||| placeSr1 base ||| placeImm off
  | .lea dr off => placeOp .lea ||| placeDr dr ||| placeImm off
  | .st sr off => placeOp .st ||| placeDr sr ||| placeImm off
  | .sti sr off => placeOp .sti ||| placeDr sr ||| placeImm off
  | .str sr base off => placeOp .str ||| placeDr sr ||| placeSr1 base ||| placeImm off
  | .trap v => placeOp .trap ||| placeImm v
  | .trapGetc => placeOp .trap ||| placeImm (Machine.params.vector .getc)
  | .trapOut => placeOp .trap ||| placeImm (Machine.params.vector .out)
  | .trapPuts => placeOp .trap ||| placeImm (Machine.params.vector .puts)
  | .trapIn => placeOp .trap ||| placeImm (Machine.params.vector .inp)
  | .trapPutsp => placeOp .trap ||| placeImm (Machine.params.vector .putsp)
  | .trapHalt => placeOp .trap ||| placeImm (Machine.params.vector .halt)
  | .trapOther v => placeOp .trap ||| placeImm v
  | .rti => placeOp .rti
  | .reserved => placeOp .reserved

/-- The instruction word the host numbers `w`: this hardware's instructions are one word, with bit 0 least significant
(rules R8, R80), so bits above the row's own are zero and the word is the number itself. -/
def tableWord (nbits w : Nat) : Word := BitVec.ofNat 16 (w % 2 ^ nbits)

/-- The decoder's answer to the host's word; none for a number of bits that is no instruction of this hardware. -/
def decodeTableWord (nbits w : Nat) : Option Instr :=
  if nbits ≤ 16 then some (decode (tableWord nbits w)) else none

end Sys2Proof
end

