-- ==== Sys2Proof/Machine/Loop.lean ====
section
/-! DEFINITION. The parts of a step of the execution loop (rules R110 to R122): fetch, the PC's increment, and the step
as a function of how an instruction is run. Step.lean gives it exec. -/

namespace Sys2Proof.Machine

/-- Fetch: the same read as a data load, with its keyboard side effect (rule R112). -/
def fetch (s : State) : Res Word := memRead s.pc s

/-- The PC's increment, modulo 65536 (rules R24, R111 part 1). -/
def advance (s : State) : State := s.withPc (s.pc + 1)

/-- Fetch, increment, decode, execute (rule R111). A failing fetch leaves the PC as it is (rule R112). -/
def fetchAndRun (run : Instr → State → Outcome) (s : State) : Outcome :=
  (fetch s).andThen fun ir t => run (decode ir) (advance t)

/-- One step. No step leaves HALTED or FAILED (rule R118); while a PUTS or PUTSP walks its string the step is one of its
micro-steps (rule R177); otherwise it is one pass of the loop (rule R111). -/
def stepWith (run : Instr → State → Outcome) (s : State) : Outcome :=
  match s.run with
  | .halted => .refused .halted
  | .failed f => .fault f
  | .running =>
    match s.job with
    | some j => stringStep j s
    | none => fetchAndRun run s

/-- A state whose next step fetches: RUNNING, with no string handler in progress. -/
def readyToFetch (s : State) : State := (s.withRun .running).withJob none

/-- The state with a word stored at the PC, where the next step fetches it (rule R112). At `pc = KBSR_ADDR` the fetch
reads the device and no stored word is executed as it stands. Assumption log 11. -/
def placeAtPc (w : Word) (s : State) : State := memWrite s.pc w (readyToFetch s)

end Sys2Proof.Machine
end

