-- ==== Sys2Proof/Machine/Step.lean ====
section
/-! DEFINITION. The step of the machine and the host's way to put one instruction where the next step fetches. -/

namespace Sys2Proof.Machine

/-- One step of the execution loop (rules R110, R111, R118, R177). -/
def step (s : State) : Host.Outcome State Fault Refusal := stepWith exec s

/-- The state with the host's instruction word where the next step fetches (Machine/Loop.lean, placeAtPc). -/
def State.withFetchWord (s : State) (nbits w : Nat) : State := placeAtPc (tableWord nbits w) s

end Sys2Proof.Machine
end

