-- ==== Sys2Proof/Safety.lean ====
section
/-! DEFINITION. What counts as a safe state and a safe run, and the vocabulary the statements are written in: what a
state keeps of another, what an instruction leaves, and what the environment answers. -/

namespace Sys2Proof.Safety

open Sys2Proof.Machine

/-- COND holds one of the three tags (rules R27, R30). -/
abbrev CondLegal (c : Word) : Prop := c = params.flPos ∨ c = params.flZero ∨ c = params.flNeg

/-- The invariant of the machine: memory in its canonical form, COND one of the three tags (rule R30), and a string
handler in progress only while RUNNING (rules R118, R177). -/
abbrev Inv (s : State) : Prop := s.mem.wf ∧ CondLegal s.cond ∧ (s.job ≠ none → s.run = .running)

/-- A safe state is one that has not FAILED (rule R211). -/
abbrev Safe (s : State) : Prop := ∀ f, s.run ≠ .failed f

/-- COND says the sign of a word read as two's complement (rules R28, R135). -/
abbrev FlagsFollow (v c : Word) : Prop :=
  (v.toNat = 0 → c = params.flZero) ∧ (0 < v.toNat → v.toNat < 0x8000 → c = params.flPos) ∧ (0x8000 ≤ v.toNat → c = params.flNeg)

/-- Every general register but the ones listed is as it was. -/
abbrev RegsKeptBut (rs : List Reg) (s t : State) : Prop := ∀ r, r ∉ rs → t.reg r = s.reg r

/-- Every word of memory is as it was. -/
abbrev MemKept (s t : State) : Prop := ∀ n : Nat, t.mem.read n = s.mem.read n

/-- Every word of memory is as it was, but those at the addresses listed. -/
abbrev MemKeptBut (as : List Word) (s t : State) : Prop := ∀ n : Nat, (∀ a ∈ as, n ≠ a.toNat) → t.mem.read n = s.mem.read n

/-- The output stream is as it was. -/
abbrev OutputKept (s t : State) : Prop := t.outAnswers = s.outAnswers ∧ t.output = s.output

/-- The echo channel is as it was. -/
abbrev EchoKept (s t : State) : Prop := t.echoAnswers = s.echoAnswers ∧ t.echo = s.echo

/-- The three streams are as they were. -/
abbrev StreamsKept (s t : State) : Prop := t.input = s.input ∧ OutputKept s t ∧ EchoKept s t

/-- One answer of the input stream was taken; the other two streams are as they were. -/
abbrev InputTaken (s t : State) : Prop := t.input = s.nextInput.2 ∧ OutputKept s t ∧ EchoKept s t

/-- The run state and the string handler in progress are as they were. -/
abbrev RunKept (s t : State) : Prop := t.run = s.run ∧ t.job = s.job

/-- The run state is FAILED for the reason given, and no string handler is in progress (rule R210). -/
abbrev FailedWith (f : Fault) (t : State) : Prop := t.run = .failed f ∧ t.job = none

/-- The PC and COND are as they were. -/
abbrev PcCondKept (s t : State) : Prop := t.pc = s.pc ∧ t.cond = s.cond

/-- A result is in its register, COND says its sign, and nothing else of the register file changed. -/
abbrev ResultWritten (dr : Reg) (v : Word) (s t : State) : Prop :=
  t.reg dr = v ∧ FlagsFollow v t.cond ∧ RegsKeptBut [dr] s t ∧ t.pc = s.pc ∧ RunKept s t

/-- The instruction completes: it writes a result and its flags, and changes nothing else. -/
abbrev Computes (i : Instr) (dr : Reg) (v : Word) (s : State) : Prop :=
  ∃ t, exec i s = .next t ∧ ResultWritten dr v s t ∧ MemKept s t ∧ StreamsKept s t

/-- The keyboard-status word after a byte was read (rules R53, R54). -/
def statusWord (b : Byte) : Word := if b = 0 then 0x0000 else params.available

/-- The bytes PUTS and PUTSP emit for the "available" status word 0x8000 (rules R175, R180). -/
def statusBytes (kind : StringKind) : List Byte :=
  match kind with
  | .puts => [0x00]
  | .putsp => [0x00, 0x80]

/-- The keyboard-data word after a byte was read, from what it held (rules R53, R54; both readings of `KBDR_ON_ZERO`). -/
def dataWord (b : Byte) (old : Word) : Word :=
  if b = 0 then
    match params.kbdrOnZero with
    | .unchanged => old
    | .cleared => 0
  else b.zeroExtend 16

/-- The two keyboard words are as the device leaves them for a byte. -/
abbrev KeyboardWords (b : Byte) (s t : State) : Prop :=
  t.memAt params.kbsrAddr = statusWord b ∧ t.memAt params.kbdrAddr = dataWord b (s.memAt params.kbdrAddr)

/-- The device's update for a byte, and every other word of memory as it was. -/
abbrev KeyboardUpdated (b : Byte) (s t : State) : Prop :=
  KeyboardWords b s t ∧ MemKeptBut [params.kbsrAddr, params.kbdrAddr] s t

/-- A keyboard read failed: the machine is FAILED, the answer is consumed, and nothing else changed (rule R55). -/
abbrev StoppedAtRead (c : Cause) (s t : State) : Prop :=
  FailedWith (.ioFailure c) t ∧ RegsKeptBut [] s t ∧ PcCondKept s t ∧ MemKept s t ∧ InputTaken s t

/-- An instruction that reads the keyboard-status word stops where the read fails and never completes where the request
is never answered (rules R55, R222). -/
abbrev StopsWhereTheReadDoes (i : Instr) (s : State) : Prop :=
  (∀ c, s.nextInput.1 = some (.fail c) → ∃ t, exec i s = .next t ∧ StoppedAtRead c s t) ∧
  (s.nextInput.1 = none → exec i s = .refused .inputNeverAnswered)

/-- The instruction loads a register from an address: a plain word, or at the keyboard-status address the status word
after the device's update. -/
abbrev Loads (i : Instr) (dr : Reg) (a : Word) (s : State) : Prop :=
  (a ≠ params.kbsrAddr → Computes i dr (s.memAt a) s) ∧
  (a = params.kbsrAddr → ∀ b, s.nextInput.1 = some (.byte b) →
    ∃ t, exec i s = .next t ∧ ResultWritten dr (statusWord b) s t ∧ KeyboardUpdated b s t ∧ InputTaken s t) ∧
  (a = params.kbsrAddr → StopsWhereTheReadDoes i s)

/-- The instruction loads a register through the pointer at an address (rule R152). -/
abbrev LoadsThrough (i : Instr) (dr : Reg) (a : Word) (s : State) : Prop :=
  (a ≠ params.kbsrAddr → Loads i dr (s.memAt a) s) ∧
  (a = params.kbsrAddr → ∀ b, s.nextInput.1 = some (.byte b) →
    ∃ t, exec i s = .next t ∧ ResultWritten dr (s.memAt (statusWord b)) s t ∧ KeyboardUpdated b s t ∧ InputTaken s t) ∧
  (a = params.kbsrAddr → StopsWhereTheReadDoes i s)

/-- The instruction stores a register's word at an address and changes nothing else. -/
abbrev Stores (i : Instr) (sr : Reg) (a : Word) (s : State) : Prop :=
  ∃ t, exec i s = .next t ∧ t.memAt a = s.reg sr ∧ MemKeptBut [a] s t ∧ RegsKeptBut [] s t ∧ PcCondKept s t ∧
    RunKept s t ∧ StreamsKept s t

/-- The instruction stores a register's word through the pointer at an address (rule R156). -/
abbrev StoresThrough (i : Instr) (sr : Reg) (a : Word) (s : State) : Prop :=
  (a ≠ params.kbsrAddr → Stores i sr (s.memAt a) s) ∧
  (a = params.kbsrAddr → ∀ b, s.nextInput.1 = some (.byte b) →
    ∃ t, exec i s = .next t ∧ t.memAt (statusWord b) = s.reg sr ∧ KeyboardWords b s t ∧
      MemKeptBut [statusWord b, params.kbsrAddr, params.kbdrAddr] s t ∧ RegsKeptBut [] s t ∧ PcCondKept s t ∧
      RunKept s t ∧ InputTaken s t) ∧
  (a = params.kbsrAddr → StopsWhereTheReadDoes i s)

/-- What every trap leaves: the incremented PC in R7, and the PC itself (rule R170). -/
abbrev Trapped (s t : State) : Prop := t.reg .r7 = s.pc ∧ t.pc = s.pc

/-- What an operand field of an instruction word names (rule R83). -/
def regAt (w : Word) (lo : Nat) : Reg := regOfBits (w.extractLsb' lo 3)

/-- The opcode of an instruction word (rule R80). -/
def opAt (w : Word) : BitVec 4 := w.extractLsb' 12 4

/-- The bits of an instruction word that are in no field (rule R89). -/
def ignoredBits (w : Word) : Word :=
  if opAt w = 0b0001 ∨ opAt w = 0b0101 then (if w.getLsbD 5 then 0x0000 else 0x0018)
  else if opAt w = 0b1001 then 0x003F
  else if opAt w = 0b1100 then 0x0E3F
  else if opAt w = 0b0100 then (if w.getLsbD 11 then 0x0000 else 0x063F)
  else if opAt w = 0b1111 then 0x0F00
  else if opAt w = 0b1000 ∨ opAt w = 0b1101 then 0x0FFF
  else 0x0000

/-- BR's condition mask as the number `ir[11:9]`: n counts four, z two, p one (rule R85). -/
def maskNumber (n z p : Bool) : Word := BitVec.ofNat 16 (4 * n.toNat + 2 * z.toNat + p.toNat)

/-- The k-th answer still to come on a stream. -/
def answerAt {α : Type} (free : Nat → α) (q : Supply α) (k : Nat) : α :=
  match q.listed[k]? with
  | some a => a
  | none =>
    match q.later with
    | .always a => a
    | .free => free (q.drawn + k)

/-- The k-th answer still to come to `OutByte`. -/
def outAnswerAt (s : State) (k : Nat) : OutAnswer := answerAt Config.freeOutput s.outAnswers k

/-- The PC after an instruction at `s.pc` has completed or stopped, from the state before its fetch (rule R25). -/
def pcAfter (i : Instr) (s : State) : Word :=
  match i with
  | .br n z p off => if maskNumber n z p &&& s.cond ≠ 0 then s.pc + 1 + sext off else s.pc + 1
  | .jmp base => s.reg base
  | .jsr off => s.pc + 1 + sext off
  | .jsrr base => if base = .r7 then s.pc + 1 else s.reg base
  | .addReg _ _ _ | .addImm _ _ _ | .andReg _ _ _ | .andImm _ _ _ | .not _ _ => s.pc + 1
  | .ld _ _ | .ldi _ _ | .ldr _ _ _ | .lea _ _ | .st _ _ | .sti _ _ | .str _ _ _ => s.pc + 1
  | .trap _ | .trapGetc | .trapOut | .trapPuts | .trapIn | .trapPutsp | .trapHalt | .trapOther _ => s.pc + 1
  | .rti | .reserved => s.pc + 1

/-- The general registers an instruction may write (rule R23). -/
def destinations (i : Instr) : List Reg :=
  match i with
  | .addReg dr _ _ | .addImm dr _ _ | .andReg dr _ _ | .andImm dr _ _ | .not dr _ => [dr]
  | .ld dr _ | .ldi dr _ | .ldr dr _ _ | .lea dr _ => [dr]
  | .jsr _ | .jsrr _ | .trapOut | .trapPuts | .trapPutsp | .trapHalt | .trapOther _ => [.r7]
  | .trapGetc | .trapIn => [.r0, .r7]
  | .trap v => if v = params.vector .getc ∨ v = params.vector .inp then [.r0, .r7] else [.r7]
  | .br _ _ _ _ | .jmp _ | .st _ _ | .sti _ _ | .str _ _ _ | .rti | .reserved => []

/-- The register whose word COND says the sign of after an instruction, none where it leaves COND alone (rule R29). -/
def flagSource (i : Instr) : Option Reg :=
  match i with
  | .addReg dr _ _ | .addImm dr _ _ | .andReg dr _ _ | .andImm dr _ _ | .not dr _ => some dr
  | .ld dr _ | .ldi dr _ | .ldr dr _ _ | .lea dr _ => some dr
  | .trapGetc | .trapIn => some .r0
  | .trap v => if v = params.vector .getc ∨ v = params.vector .inp then some .r0 else none
  | .br _ _ _ _ | .jmp _ | .jsr _ | .jsrr _ | .st _ _ | .sti _ _ | .str _ _ _ => none
  | .trapOut | .trapPuts | .trapPutsp | .trapHalt | .trapOther _ | .rti | .reserved => none

/-- The three instructions that store (rule R51). -/
def isStore (i : Instr) : Bool :=
  match i with
  | .st _ _ | .sti _ _ | .str _ _ _ => true
  | .addReg _ _ _ | .addImm _ _ _ | .andReg _ _ _ | .andImm _ _ _ | .not _ _ => false
  | .br _ _ _ _ | .jmp _ | .jsr _ | .jsrr _ | .ld _ _ | .ldi _ _ | .ldr _ _ _ | .lea _ _ => false
  | .trap _ | .trapGetc | .trapOut | .trapPuts | .trapIn | .trapPutsp | .trapHalt | .trapOther _ => false
  | .rti | .reserved => false

/-- The one instruction that reads COND (rule R29). -/
def isBranch (i : Instr) : Bool :=
  match i with
  | .br _ _ _ _ => true
  | .addReg _ _ _ | .addImm _ _ _ | .andReg _ _ _ | .andImm _ _ _ | .not _ _ => false
  | .jmp _ | .jsr _ | .jsrr _ | .ld _ _ | .ldi _ _ | .ldr _ _ _ | .lea _ _ | .st _ _ | .sti _ _ | .str _ _ _ => false
  | .trap _ | .trapGetc | .trapOut | .trapPuts | .trapIn | .trapPutsp | .trapHalt | .trapOther _ => false
  | .rti | .reserved => false

end Sys2Proof.Safety
end

