-- ==== Sys2Proof/Certificates/Slice0/Obligations.lean ====
section
/-! DEFINITION. The statements for the provers. Each docstring names the rule of spec/ it formalises. A trailing clause
"under D<n>" names the spec's own decision a rule rests on. -/

open Sys2Proof Sys2Proof.Machine Sys2Proof.Safety

/-! Encoding -/

/-- Words written out from the layouts of rule R87 decode to what they stand for (95_test_vectors.md, V-DEC). -/
def Obligations.WordsOfTheSpecDecode : Prop :=
  decode 0x0000 = .br false false false 0 ∧ decode 0x07FE = .br false true true 0x1FE ∧
  decode 0x1200 = .addReg .r1 .r0 .r0 ∧ decode 0x127F = .addImm .r1 .r1 0x1F ∧
  decode 0x5020 = .andImm .r0 .r0 0 ∧ decode 0x94BF = .not .r2 .r2 ∧ decode 0xC1C0 = .jmp .r7 ∧
  decode 0x4806 = .jsr 6 ∧ decode 0x41C0 = .jsrr .r7 ∧ decode 0x2207 = .ld .r1 7 ∧ decode 0xA204 = .ldi .r1 4 ∧
  decode 0x6581 = .ldr .r2 .r6 1 ∧ decode 0xEC0C = .lea .r6 12 ∧ decode 0x3003 = .st .r0 3 ∧
  decode 0xB601 = .sti .r3 1 ∧ decode 0x7381 = .str .r1 .r6 1 ∧ decode 0xF022 = .trapPuts ∧
  decode 0xF025 = .trapHalt ∧ decode 0xFFFF = .trapOther 0xFF ∧ decode 0x8000 = .rti ∧ decode 0xD000 = .reserved

/-- The named parameters of rule R7 at the values the spec decides (its decisions D1 to D7; assumption log 1): the
numbers behind every statement that names a parameter. -/
def Obligations.ParametersHaveTheSpecsValues : Prop :=
  opcodes.map params.opcode = [0x0, 0x1, 0x2, 0x3, 0x4, 0x5, 0x6, 0x7, 0x8, 0x9, 0xA, 0xB, 0xC, 0xD, 0xE, 0xF] ∧
  opcodes = [.br, .add, .ld, .st, .jsr, .and, .ldr, .str, .rti, .not, .ldi, .sti, .jmp, .reserved, .lea, .trap] ∧
  [TrapService.getc, .out, .puts, .inp, .putsp, .halt].map params.vector = [0x20, 0x21, 0x22, 0x23, 0x24, 0x25] ∧
  [params.posDR, params.posSR1, params.posSR2, params.posImm, params.posMode, params.posJsrMode] = [9, 6, 0, 0, 5, 11] ∧
  [params.posN, params.posZ, params.posP] = [11, 10, 9] ∧
  [params.flPos, params.flZero, params.flNeg] = [0x0001, 0x0002, 0x0004] ∧
  [params.kbsrAddr, params.kbdrAddr, params.available] = [0xFE00, 0xFE02, 0x8000]

/-- Decoding the word of a well-formed instruction gives the instruction back; the generic TRAP row gives the row that
its vector names (rules R87, R88, R91). -/
def Obligations.DecodeOfEncodeIsTheInstruction : Prop :=
  ∀ i : Instr, i.wellFormed = true →
    ((∀ v, i ≠ .trap v) → decode (encode i) = i) ∧ (∀ v, i = .trap v → decode (encode i) = trapRow v)

/-- Encoding what any word decodes to gives the word back in every bit that is in a field (rules R87, R89, R91). -/
def Obligations.EncodeOfDecodeKeepsEveryField : Prop :=
  ∀ w : Word, (encode (decode w) ^^^ w) &&& ~~~(ignoredBits w) = 0

/-- Rule R89: a word whose bits in no field differ decodes to the same instruction. -/
def Obligations.BitsInNoFieldAreIgnored : Prop :=
  ∀ w x : Word, decode (w ^^^ (x &&& ignoredBits w)) = decode w

/-- Every word decodes to a well-formed instruction, and never to the generic TRAP row (rules R90, R91). -/
def Obligations.EveryWordDecodesWellFormed : Prop :=
  ∀ w : Word, (decode w).wellFormed = true ∧ ∀ v, decode w ≠ .trap v

/-- Rule R10: sign extension of the fields of 5, 6, 9 and 11 bits, by its formula and as two's complement. -/
def Obligations.SignExtensionKeepsTheSignedValue : Prop :=
  ∀ n ∈ [5, 6, 9, 11], ∀ f : BitVec n,
    (f.getLsbD (n - 1) = true → (sext f).toNat = f.toNat + (65536 - 2 ^ n)) ∧
    (f.getLsbD (n - 1) = false → (sext f).toNat = f.toNat) ∧ (sext f).toInt = f.toInt

/-! State, memory and the streams -/

/-- Rule R42: every piece of the core's state right after reset with a memory image. -/
def Obligations.ResetLeavesTheSpecsValues : Prop :=
  ∀ image : Memory,
    (∀ r, (State.resetWith image).reg r = 0) ∧ (State.resetWith image).pc = 0x3000 ∧
    (State.resetWith image).cond = params.flZero ∧ (State.resetWith image).run = .running ∧
    (∀ a, (State.resetWith image).memAt a = image.read a.toNat)

/-- At reset nothing was consumed and nothing emitted (the spec's decision D9); the first answer of each stream is then
the environment's first, free one (the model's choice, assumption log 8), and no string is in progress (log 4). -/
def Obligations.ResetLeavesTheStreamsUntouched : Prop :=
  ∀ image : Memory,
    (State.resetWith image).job = none ∧ (State.resetWith image).output = [] ∧ (State.resetWith image).echo = [] ∧
    (State.resetWith image).input.drawn = 0 ∧ (State.resetWith image).outAnswers.drawn = 0 ∧
    (State.resetWith image).echoAnswers.drawn = 0 ∧
    (State.resetWith image).nextInput.1 = some (Config.freeInput 0) ∧
    (State.resetWith image).nextOut.1 = Config.freeOutput 0 ∧ (State.resetWith image).nextEcho.1 = Config.freeEcho 0

/-- The invariant holds right after reset, with any image in the canonical form (rules R30, R42). -/
def Obligations.ResetMeetsTheInvariant : Prop :=
  Inv State.reset ∧ ∀ image : Memory, image.wf → Inv (State.resetWith image)

/-- Every step keeps the invariant (rule R30 for COND; the canonical form of memory is the model's own). -/
def Obligations.EveryStepKeepsTheInvariant : Prop :=
  ∀ s t : State, Inv s → step s = .next t → Inv t

/-- Rule R56: `MemWrite` stores the word, at every address, and touches nothing else. -/
def Obligations.MemWriteIsAPlainStore : Prop :=
  ∀ (s : State) (a v : Word),
    (memWrite a v s).memAt a = v ∧ MemKeptBut [a] s (memWrite a v s) ∧ RegsKeptBut [] s (memWrite a v s) ∧
    PcCondKept s (memWrite a v s) ∧ RunKept s (memWrite a v s) ∧ StreamsKept s (memWrite a v s)

/-- A word stored where the next step fetches is the word that step runs (rule R67). -/
def Obligations.AStoreIsSeenByTheNextFetch : Prop :=
  ∀ (s : State) (v : Word), s.run = .running → s.job = none → s.pc ≠ params.kbsrAddr →
    step (memWrite s.pc v s) = exec (decode v) ((memWrite s.pc v s).withPc (s.pc + 1))

/-- Rules R53, R54, R55: what `MemRead` answers, at the keyboard-status address and at every other. -/
def Obligations.MemReadReadsAWordOrTheKeyboard : Prop :=
  ∀ (s : State) (a : Word),
    (a ≠ params.kbsrAddr → memRead a s = .done (.ok (s.memAt a)) s) ∧
    (a = params.kbsrAddr →
      (∀ b, s.nextInput.1 = some (.byte b) →
        ∃ t, memRead a s = .done (.ok (statusWord b)) t ∧ KeyboardUpdated b s t ∧ RegsKeptBut [] s t ∧ PcCondKept s t ∧
          RunKept s t ∧ InputTaken s t) ∧
      (∀ c, s.nextInput.1 = some (.fail c) →
        ∃ t, memRead a s = .done (.error c) t ∧ MemKept s t ∧ RegsKeptBut [] s t ∧ PcCondKept s t ∧ RunKept s t ∧
          InputTaken s t) ∧
      (s.nextInput.1 = none → memRead a s = .blocked))

/-- Rule R28: `setcc` recomputes COND from the register and changes nothing else. -/
def Obligations.SetccFollowsTheRegister : Prop :=
  ∀ (s : State) (r : Reg),
    (s.reg r = 0x0000 → (setcc r s).cond = params.flZero) ∧
    (s.reg r ≠ 0x0000 → (s.reg r).getLsbD 15 = true → (setcc r s).cond = params.flNeg) ∧
    (s.reg r ≠ 0x0000 → (s.reg r).getLsbD 15 = false → (setcc r s).cond = params.flPos) ∧
    RegsKeptBut [] s (setcc r s) ∧ (setcc r s).pc = s.pc ∧ RunKept s (setcc r s) ∧ MemKept s (setcc r s) ∧
    StreamsKept s (setcc r s)

/-- A string of bytes written to the output stream is on it up to the first failure, and nothing else changes (rules
R35, R119). -/
def Obligations.WritesStopAtTheFirstFailure : Prop :=
  ∀ (s : State) (bs : List Byte),
    ((∀ k < bs.length, outAnswerAt s k = .ok) →
      ∃ t, outBytes bs s = (none, t) ∧ t.output = s.output ++ bs ∧
        t.outAnswers.drawn = s.outAnswers.drawn + bs.length ∧ RegsKeptBut [] s t ∧ PcCondKept s t ∧ RunKept s t ∧
        MemKept s t ∧ t.input = s.input ∧ EchoKept s t) ∧
    (∀ k c, k < bs.length → (∀ m < k, outAnswerAt s m = .ok) → outAnswerAt s k = .fail c →
      ∃ t, outBytes bs s = (some c, t) ∧ t.output = s.output ++ bs.take k ∧
        t.outAnswers.drawn = s.outAnswers.drawn + k + 1 ∧ RegsKeptBut [] s t ∧ PcCondKept s t ∧
        RunKept s t ∧ MemKept s t ∧ t.input = s.input ∧ EchoKept s t)

/-! The step of the execution loop -/

/-- A step of a RUNNING machine runs the instruction its word at the PC decodes to, at the incremented PC (rule R111). -/
def Obligations.AStepRunsTheDecodedInstruction : Prop :=
  ∀ s : State, s.run = .running → s.job = none → s.pc ≠ params.kbsrAddr →
    step s = exec (decode (s.memAt s.pc)) (s.withPc (s.pc + 1))

/-- Rule R112: the fetch at the keyboard-status address. -/
def Obligations.TheFetchReadsTheKeyboardToo : Prop :=
  ∀ s : State, s.run = .running → s.job = none → s.pc = params.kbsrAddr →
    (∀ b, b ≠ 0 → s.nextInput.1 = some (.byte b) →
      ∃ t, step s = .next t ∧ FailedWith (.unhandledOpcode (params.opcode .rti)) t ∧ t.pc = s.pc + 1 ∧ t.cond = s.cond ∧
        RegsKeptBut [] s t ∧ KeyboardUpdated b s t ∧ InputTaken s t) ∧
    (s.nextInput.1 = some (.byte 0) →
      ∃ t, step s = .next t ∧ RunKept s t ∧ t.pc = s.pc + 1 ∧ t.cond = s.cond ∧ RegsKeptBut [] s t ∧
        KeyboardUpdated 0 s t ∧ InputTaken s t) ∧
    (∀ c, s.nextInput.1 = some (.fail c) → ∃ t, step s = .next t ∧ StoppedAtRead c s t) ∧
    (s.nextInput.1 = none → step s = .refused .inputNeverAnswered)

/-- Rule R118: no step leaves HALTED or FAILED. -/
def Obligations.NoStepLeavesATerminalState : Prop :=
  ∀ s : State, s.run ≠ .running → ∀ t, step s ≠ .next t

/-- A step answers a fault exactly at a FAILED state, with its reason: a RUNNING machine that fails gives a next state
whose run state says so (rules R118, R210). -/
def Obligations.AStepFaultsExactlyWhereFailed : Prop :=
  ∀ (s : State) (f : Fault), step s = .fault f ↔ s.run = .failed f

/-- Every step of a RUNNING machine completes if the input stream answers its next request (rules R115, R122, R222). -/
def Obligations.AnAnsweredStepCompletes : Prop :=
  ∀ s : State, s.run = .running → s.nextInput.1 ≠ none → ∃ t, step s = .next t

/-- A step takes at most one answer of the input stream (rules R53, R57, R152, R184). -/
def Obligations.AStepTakesAtMostOneInputAnswer : Prop :=
  ∀ s t : State, step s = .next t → t.input = s.input ∨ t.input = s.nextInput.2

/-- Rule R25: the PC at the end of a step, for every instruction. The word run at the keyboard-status address is the
status word; a fetch that fails is in `TheFetchReadsTheKeyboardToo`. -/
def Obligations.EveryInstructionLeavesThePcItShould : Prop :=
  ∀ s t : State, s.run = .running → s.job = none → step s = .next t →
    (s.pc ≠ params.kbsrAddr → t.pc = pcAfter (decode (s.memAt s.pc)) s) ∧
    (∀ b, s.pc = params.kbsrAddr → s.nextInput.1 = some (.byte b) → t.pc = pcAfter (decode (statusWord b)) s)

/-- An instruction writes no general register but those rule R23 lists for it. -/
def Obligations.OnlyTheListedRegistersAreWritten : Prop :=
  ∀ (i : Instr) (s t : State), exec i s = .next t → RegsKeptBut (destinations i) s t

/-- What writes COND (rule R29): the seven data instructions, GETC and IN, each from its register, if it completes;
every other instruction leaves COND as it is, and so does one that fails. -/
def Obligations.OnlyDataInstructionsWriteCond : Prop :=
  ∀ (i : Instr) (s t : State), s.run = .running → exec i s = .next t →
    (flagSource i = none ∨ t.run ≠ .running → t.cond = s.cond) ∧
    (∀ r, flagSource i = some r → t.run = .running → FlagsFollow (t.reg r) t.cond)

/-- What reads COND (rule R29): only BR. Any other instruction does the same whatever COND holds, but for COND itself. -/
def Obligations.OnlyBranchesReadCond : Prop :=
  ∀ (i : Instr) (s t : State) (c : Word), isBranch i = false → exec i s = .next t →
    ∃ u, exec i (s.withCond c) = .next u ∧ u.withCond 0 = t.withCond 0

/-- No instruction but the three stores changes memory, except the device's two words where it takes an input answer
(rules R51, R53, R68). -/
def Obligations.OnlyStoresAndTheKeyboardChangeMemory : Prop :=
  ∀ (i : Instr) (s t : State), isStore i = false → exec i s = .next t →
    MemKeptBut [params.kbsrAddr, params.kbdrAddr] s t ∧ (t.input = s.input → MemKept s t)

/-- Rule R117: the step of a HALT trap ends HALTED, and nothing else produces HALTED. -/
def Obligations.OnlyTheHaltTrapHalts : Prop :=
  ∀ s : State, s.run = .running →
    (s.job = none → s.pc ≠ params.kbsrAddr → decode (s.memAt s.pc) = .trapHalt → ∃ t, step s = .next t ∧ t.run = .halted) ∧
    (∀ t, step s = .next t → t.run = .halted → s.job = none ∧ s.pc ≠ params.kbsrAddr ∧ decode (s.memAt s.pc) = .trapHalt)

/-- The three fatal errors, where each is raised and with what PC (rules R202, R211, R213). -/
def Obligations.FatalErrorsHaveTheirCauses : Prop :=
  ∀ (s t : State), s.run = .running → step s = .next t →
    (∀ op, t.run = .failed (.unhandledOpcode op) →
      s.job = none ∧ t.pc = s.pc + 1 ∧
      ((s.pc ≠ params.kbsrAddr ∧ ((decode (s.memAt s.pc) = .rti ∧ op = params.opcode .rti) ∨
        (decode (s.memAt s.pc) = .reserved ∧ op = params.opcode .reserved))) ∨
        (s.pc = params.kbsrAddr ∧ op = params.opcode .rti))) ∧
    (∀ v, t.run = .failed (.unrecognizedTrap v) →
      s.job = none ∧ s.pc ≠ params.kbsrAddr ∧ decode (s.memAt s.pc) = .trapOther v ∧ Trapped (s.withPc (s.pc + 1)) t) ∧
    (∀ c, t.run = .failed (.ioFailure c) →
      (s.nextInput.1 = some (.fail c) ∨ (∃ k, outAnswerAt s k = .fail c) ∨ s.nextEcho.1 = .fail c) ∧
      (s.job = none → s.pc = params.kbsrAddr → t.pc = s.pc) ∧ (s.job = none → s.pc ≠ params.kbsrAddr → t.pc = s.pc + 1) ∧
      (s.job ≠ none → t.pc = s.pc))

/-- The core never reads back what it emitted (rules R35, R36): a step adds bytes at the end of the two emitted
sequences and does the same whatever they hold. -/
def Obligations.EmittedBytesAreNeverReadBack : Prop :=
  ∀ (s t : State), step s = .next t →
    ∃ ds es : List Byte, t.output = s.output ++ ds ∧ t.echo = s.echo ++ es ∧
      ∀ out echo : List Byte,
        step ((s.withOutput out).withEcho echo) = .next ((t.withOutput (out ++ ds)).withEcho (echo ++ es))

/-! ADD, AND, NOT -/

/-- Rule R131: ADD, both modes. -/
def Obligations.AddFollowsItsRule : Prop :=
  (∀ w : Word, opAt w = params.opcode .add → w.getLsbD params.posMode = false →
    decode w = .addReg (regAt w params.posDR) (regAt w params.posSR1) (regAt w params.posSR2)) ∧
  (∀ w : Word, opAt w = params.opcode .add → w.getLsbD params.posMode = true →
    decode w = .addImm (regAt w params.posDR) (regAt w params.posSR1) (w.extractLsb' params.posImm 5)) ∧
  (∀ (s : State) (dr sr1 sr2 : Reg),
    Computes (.addReg dr sr1 sr2) dr (BitVec.ofNat 16 ((s.reg sr1).toNat + (s.reg sr2).toNat)) s) ∧
  (∀ (s : State) (dr sr1 : Reg) (imm5 : BitVec 5),
    Computes (.addImm dr sr1 imm5) dr (BitVec.ofInt 16 ((s.reg sr1).toNat + imm5.toInt)) s)

/-- Rule R132: AND, both modes. -/
def Obligations.AndFollowsItsRule : Prop :=
  (∀ w : Word, opAt w = params.opcode .and → w.getLsbD params.posMode = false →
    decode w = .andReg (regAt w params.posDR) (regAt w params.posSR1) (regAt w params.posSR2)) ∧
  (∀ w : Word, opAt w = params.opcode .and → w.getLsbD params.posMode = true →
    decode w = .andImm (regAt w params.posDR) (regAt w params.posSR1) (w.extractLsb' params.posImm 5)) ∧
  (∀ (s : State) (dr sr1 sr2 : Reg), Computes (.andReg dr sr1 sr2) dr (s.reg sr1 &&& s.reg sr2) s) ∧
  (∀ (s : State) (dr sr1 : Reg) (imm5 : BitVec 5),
    Computes (.andImm dr sr1 imm5) dr (s.reg sr1 &&& BitVec.ofInt 16 imm5.toInt) s)

/-- Rule R133: NOT. -/
def Obligations.NotFollowsItsRule : Prop :=
  (∀ w : Word, opAt w = params.opcode .not → decode w = .not (regAt w params.posDR) (regAt w params.posSR1)) ∧
  (∀ (s : State) (dr sr : Reg), Computes (.not dr sr) dr (BitVec.ofNat 16 (0xFFFF - (s.reg sr).toNat)) s)

/-! BR, JMP, JSR, JSRR -/

/-- Rule R141: BR, for any COND; and for each of the three tags by the mask's bits. -/
def Obligations.BranchFollowsItsRule : Prop :=
  (∀ w : Word, opAt w = params.opcode .br →
    decode w = .br (w.getLsbD params.posN) (w.getLsbD params.posZ) (w.getLsbD params.posP) (w.extractLsb' params.posImm 9)) ∧
  (∀ (s : State) (n z p : Bool) (off : BitVec 9),
    ∃ t, exec (.br n z p off) s = .next t ∧
      t.pc = (if maskNumber n z p &&& s.cond ≠ 0 then BitVec.ofInt 16 (s.pc.toNat + off.toInt) else s.pc) ∧
      (CondLegal s.cond → (maskNumber n z p &&& s.cond ≠ 0 ↔
        (n = true ∧ s.cond = params.flNeg) ∨ (z = true ∧ s.cond = params.flZero) ∨ (p = true ∧ s.cond = params.flPos))) ∧
      t.cond = s.cond ∧ RegsKeptBut [] s t ∧ RunKept s t ∧ MemKept s t ∧ StreamsKept s t)

/-- Rule R142: JMP. -/
def Obligations.JumpFollowsItsRule : Prop :=
  (∀ w : Word, opAt w = params.opcode .jmp → decode w = .jmp (regAt w params.posSR1)) ∧
  (∀ (s : State) (base : Reg),
    ∃ t, exec (.jmp base) s = .next t ∧ t.pc = s.reg base ∧ t.cond = s.cond ∧ RegsKeptBut [] s t ∧ RunKept s t ∧
      MemKept s t ∧ StreamsKept s t)

/-- Rule R143: JSR. -/
def Obligations.JsrFollowsItsRule : Prop :=
  (∀ w : Word, opAt w = params.opcode .jsr → w.getLsbD params.posJsrMode = true →
    decode w = .jsr (w.extractLsb' params.posImm 11)) ∧
  (∀ (s : State) (off : BitVec 11),
    ∃ t, exec (.jsr off) s = .next t ∧ t.reg .r7 = s.pc ∧ t.pc = BitVec.ofInt 16 (s.pc.toNat + off.toInt) ∧
      t.cond = s.cond ∧ RegsKeptBut [.r7] s t ∧ RunKept s t ∧ MemKept s t ∧ StreamsKept s t)

/-- Rule R144: JSRR, whose base register is read after the link is written (under D20). -/
def Obligations.JsrrFollowsItsRule : Prop :=
  (∀ w : Word, opAt w = params.opcode .jsr → w.getLsbD params.posJsrMode = false →
    decode w = .jsrr (regAt w params.posSR1)) ∧
  (∀ (s : State) (base : Reg),
    ∃ t, exec (.jsrr base) s = .next t ∧ t.reg .r7 = s.pc ∧ t.pc = (if base = .r7 then s.pc else s.reg base) ∧
      t.cond = s.cond ∧ RegsKeptBut [.r7] s t ∧ RunKept s t ∧ MemKept s t ∧ StreamsKept s t)

/-! Loads and stores -/

/-- Rule R151: LD. -/
def Obligations.LdFollowsItsRule : Prop :=
  (∀ w : Word, opAt w = params.opcode .ld → decode w = .ld (regAt w params.posDR) (w.extractLsb' params.posImm 9)) ∧
  (∀ (s : State) (dr : Reg) (off : BitVec 9), Loads (.ld dr off) dr (BitVec.ofInt 16 (s.pc.toNat + off.toInt)) s)

/-- Rule R152: LDI. -/
def Obligations.LdiFollowsItsRule : Prop :=
  (∀ w : Word, opAt w = params.opcode .ldi → decode w = .ldi (regAt w params.posDR) (w.extractLsb' params.posImm 9)) ∧
  (∀ (s : State) (dr : Reg) (off : BitVec 9), LoadsThrough (.ldi dr off) dr (BitVec.ofInt 16 (s.pc.toNat + off.toInt)) s)

/-- Rule R153: LDR. -/
def Obligations.LdrFollowsItsRule : Prop :=
  (∀ w : Word, opAt w = params.opcode .ldr →
    decode w = .ldr (regAt w params.posDR) (regAt w params.posSR1) (w.extractLsb' params.posImm 6)) ∧
  (∀ (s : State) (dr base : Reg) (off : BitVec 6),
    Loads (.ldr dr base off) dr (BitVec.ofInt 16 ((s.reg base).toNat + off.toInt)) s)

/-- Rule R154: LEA. -/
def Obligations.LeaFollowsItsRule : Prop :=
  (∀ w : Word, opAt w = params.opcode .lea → decode w = .lea (regAt w params.posDR) (w.extractLsb' params.posImm 9)) ∧
  (∀ (s : State) (dr : Reg) (off : BitVec 9), Computes (.lea dr off) dr (BitVec.ofInt 16 (s.pc.toNat + off.toInt)) s)

/-- Rule R155: ST. -/
def Obligations.StFollowsItsRule : Prop :=
  (∀ w : Word, opAt w = params.opcode .st → decode w = .st (regAt w params.posDR) (w.extractLsb' params.posImm 9)) ∧
  (∀ (s : State) (sr : Reg) (off : BitVec 9),
    pcRelative off s = BitVec.ofInt 16 (s.pc.toNat + off.toInt) ∧ Stores (.st sr off) sr (pcRelative off s) s)

/-- Rule R156: STI. -/
def Obligations.StiFollowsItsRule : Prop :=
  (∀ w : Word, opAt w = params.opcode .sti → decode w = .sti (regAt w params.posDR) (w.extractLsb' params.posImm 9)) ∧
  (∀ (s : State) (sr : Reg) (off : BitVec 9),
    pcRelative off s = BitVec.ofInt 16 (s.pc.toNat + off.toInt) ∧ StoresThrough (.sti sr off) sr (pcRelative off s) s)

/-- Rule R157: STR. -/
def Obligations.StrFollowsItsRule : Prop :=
  (∀ w : Word, opAt w = params.opcode .str →
    decode w = .str (regAt w params.posDR) (regAt w params.posSR1) (w.extractLsb' params.posImm 6)) ∧
  (∀ (s : State) (sr base : Reg) (off : BitVec 6),
    baseOffset base off s = BitVec.ofInt 16 ((s.reg base).toNat + off.toInt) ∧
      Stores (.str sr base off) sr (baseOffset base off s) s)

/-! TRAP -/

/-- Rule R170 with R88, R115 and R122: TRAP writes R7 first, dispatches on the low eight bits, and leaves the PC; on the
generic row and on the row of each vector alike. That a word decodes to the row of its vector and never to the generic row
is the model's choice (assumption log 3); that PUTS and PUTSP complete with their entry rests on the micro-steps (R177,
decision D21, assumption log 4). -/
def Obligations.TrapDispatchesOnItsVector : Prop :=
  (∀ w : Word, opAt w = params.opcode .trap → decode w = trapRow (w.extractLsb' 0 8)) ∧
  (∀ v : BitVec 8, trapRow v =
    if v = params.vector .getc then .trapGetc else if v = params.vector .out then .trapOut
      else if v = params.vector .puts then .trapPuts
    else if v = params.vector .inp then .trapIn else if v = params.vector .putsp then .trapPutsp
      else if v = params.vector .halt then .trapHalt else .trapOther v) ∧
  (∀ (s : State) (v : BitVec 8), exec (.trap v) s = exec (trapRow v) s) ∧
  (∀ (s t : State) (v : BitVec 8), exec (.trap v) s = .next t → Trapped s t) ∧
  (∀ (s : State) (v : BitVec 8), s.nextInput.1 ≠ none →
    ∃ t, exec (.trap v) s = .next t ∧ exec (trapRow v) s = .next t ∧ Trapped s t)

/-- Rule R173: GETC. -/
def Obligations.GetcFollowsItsRule : Prop :=
  (∀ w : Word, opAt w = params.opcode .trap → w.extractLsb' 0 8 = params.vector .getc → decode w = .trapGetc) ∧
  (∀ (s : State) (b : Byte), s.nextInput.1 = some (.byte b) →
    ∃ t, exec .trapGetc s = .next t ∧ Trapped s t ∧ t.reg .r0 = b.zeroExtend 16 ∧
      t.cond = (if b = 0 then params.flZero else params.flPos) ∧ RegsKeptBut [.r0, .r7] s t ∧ RunKept s t ∧
      MemKept s t ∧ InputTaken s t) ∧
  (∀ (s : State) (c : Cause), s.nextInput.1 = some (.fail c) →
    ∃ t, exec .trapGetc s = .next t ∧ FailedWith (.ioFailure c) t ∧ Trapped s t ∧ t.cond = s.cond ∧
      RegsKeptBut [.r7] s t ∧ MemKept s t ∧ InputTaken s t) ∧
  (∀ s : State, s.nextInput.1 = none → exec .trapGetc s = .refused .inputNeverAnswered)

/-- Rule R174: OUT. -/
def Obligations.OutFollowsItsRule : Prop :=
  (∀ w : Word, opAt w = params.opcode .trap → w.extractLsb' 0 8 = params.vector .out → decode w = .trapOut) ∧
  (∀ s : State, s.nextOut.1 = .ok →
    ∃ t, exec .trapOut s = .next t ∧ Trapped s t ∧ t.output = s.output ++ [(s.reg .r0).extractLsb' 0 8] ∧
      t.outAnswers = s.nextOut.2 ∧ t.cond = s.cond ∧ RegsKeptBut [.r7] s t ∧ RunKept s t ∧ MemKept s t ∧
      t.input = s.input ∧ EchoKept s t) ∧
  (∀ (s : State) (c : Cause), s.nextOut.1 = .fail c →
    ∃ t, exec .trapOut s = .next t ∧ FailedWith (.ioFailure c) t ∧ Trapped s t ∧ t.output = s.output ∧
      t.outAnswers = s.nextOut.2 ∧ t.cond = s.cond ∧ RegsKeptBut [.r7] s t ∧ MemKept s t ∧ t.input = s.input ∧ EchoKept s t)

/-- Rule R175: PUTS, by its entry and by each word of its string (the micro-steps of rule R177). -/
def Obligations.PutsFollowsItsRule : Prop :=
  (∀ w : Word, opAt w = params.opcode .trap → w.extractLsb' 0 8 = params.vector .puts → decode w = .trapPuts) ∧
  (∀ s : State, ∃ t, exec .trapPuts s = .next t ∧ t.job = some { kind := .puts, cursor := s.reg .r0 } ∧ Trapped s t ∧
    t.run = s.run ∧ t.cond = s.cond ∧ RegsKeptBut [.r7] s t ∧ MemKept s t ∧ StreamsKept s t) ∧
  (∀ (s : State) (a : Word), s.run = .running → s.job = some { kind := .puts, cursor := a } → a ≠ params.kbsrAddr →
    (s.memAt a = 0 → ∃ t, step s = .next t ∧ t.job = none ∧ t.run = .running ∧ RegsKeptBut [] s t ∧ PcCondKept s t ∧
      MemKept s t ∧ StreamsKept s t) ∧
    (s.memAt a ≠ 0 → s.nextOut.1 = .ok → ∃ t, step s = .next t ∧ t.output = s.output ++ [(s.memAt a).extractLsb' 0 8] ∧
      t.outAnswers = s.nextOut.2 ∧ t.job = some { kind := .puts, cursor := a + 1 } ∧ t.run = .running ∧
      RegsKeptBut [] s t ∧ PcCondKept s t ∧ MemKept s t ∧ t.input = s.input ∧ EchoKept s t) ∧
    (∀ c, s.memAt a ≠ 0 → s.nextOut.1 = .fail c → ∃ t, step s = .next t ∧ FailedWith (.ioFailure c) t ∧
      t.output = s.output ∧ RegsKeptBut [] s t ∧ PcCondKept s t ∧ MemKept s t ∧ t.input = s.input ∧ EchoKept s t))

/-- Rule R178: IN, for the open prompt; and where the prompt fails, for any prompt. That a byte whose echo fails is not on
the echo channel is the model's choice (assumption log 22). -/
def Obligations.InFollowsItsRule : Prop :=
  (∀ w : Word, opAt w = params.opcode .trap → w.extractLsb' 0 8 = params.vector .inp → decode w = .trapIn) ∧
  (∀ s : State, (∀ k < params.inPrompt.length, outAnswerAt s k = .ok) →
    (∀ b, s.nextInput.1 = some (.byte b) → s.nextEcho.1 = .ok →
      ∃ t, exec .trapIn s = .next t ∧ Trapped s t ∧ t.reg .r0 = b.zeroExtend 16 ∧
        t.cond = (if b = 0 then params.flZero else params.flPos) ∧ RegsKeptBut [.r0, .r7] s t ∧ RunKept s t ∧ MemKept s t ∧
        t.output = s.output ++ params.inPrompt ∧ t.outAnswers.drawn = s.outAnswers.drawn + params.inPrompt.length ∧
        t.input = s.nextInput.2 ∧ t.echo = s.echo ++ [b] ∧ t.echoAnswers = s.nextEcho.2) ∧
    (∀ b c, s.nextInput.1 = some (.byte b) → s.nextEcho.1 = .fail c →
      ∃ t, exec .trapIn s = .next t ∧ FailedWith (.ioFailure c) t ∧ Trapped s t ∧ t.cond = s.cond ∧
        RegsKeptBut [.r7] s t ∧ MemKept s t ∧ t.output = s.output ++ params.inPrompt ∧ t.input = s.nextInput.2 ∧
        t.echo = s.echo ∧ t.echoAnswers = s.nextEcho.2) ∧
    (∀ c, s.nextInput.1 = some (.fail c) →
      ∃ t, exec .trapIn s = .next t ∧ FailedWith (.ioFailure c) t ∧ Trapped s t ∧ t.cond = s.cond ∧
        RegsKeptBut [.r7] s t ∧ MemKept s t ∧ t.output = s.output ++ params.inPrompt ∧ t.input = s.nextInput.2 ∧
        EchoKept s t) ∧
    (s.nextInput.1 = none → exec .trapIn s = .refused .inputNeverAnswered)) ∧
  (∀ s : State, exec .trapIn s = serviceInWith params.inPrompt (trapEntry s)) ∧
  (∀ (s : State) (prompt : List Byte) (k : Nat) (c : Cause), k < prompt.length →
    (∀ m < k, outAnswerAt s m = .ok) → outAnswerAt s k = .fail c →
    ∃ t, serviceInWith prompt (trapEntry s) = .next t ∧ FailedWith (.ioFailure c) t ∧ Trapped s t ∧ t.cond = s.cond ∧
      RegsKeptBut [.r7] s t ∧ MemKept s t ∧ t.output = s.output ++ prompt.take k ∧ t.input = s.input ∧ EchoKept s t)

/-- Rule R180: PUTSP, by its entry and by each word of its string (the micro-steps of rule R177). -/
def Obligations.PutspFollowsItsRule : Prop :=
  (∀ w : Word, opAt w = params.opcode .trap → w.extractLsb' 0 8 = params.vector .putsp → decode w = .trapPutsp) ∧
  (∀ s : State, ∃ t, exec .trapPutsp s = .next t ∧ t.job = some { kind := .putsp, cursor := s.reg .r0 } ∧ Trapped s t ∧
    t.run = s.run ∧ t.cond = s.cond ∧ RegsKeptBut [.r7] s t ∧ MemKept s t ∧ StreamsKept s t) ∧
  (∀ (s : State) (a : Word), s.run = .running → s.job = some { kind := .putsp, cursor := a } → a ≠ params.kbsrAddr →
    (s.memAt a = 0 → ∃ t, step s = .next t ∧ t.job = none ∧ t.run = .running ∧ RegsKeptBut [] s t ∧ PcCondKept s t ∧
      MemKept s t ∧ StreamsKept s t) ∧
    (s.memAt a ≠ 0 → (s.memAt a).extractLsb' 8 8 = 0#8 → outAnswerAt s 0 = .ok →
      ∃ t, step s = .next t ∧ t.output = s.output ++ [(s.memAt a).extractLsb' 0 8] ∧
        t.job = some { kind := .putsp, cursor := a + 1 } ∧ t.run = .running ∧ RegsKeptBut [] s t ∧ PcCondKept s t ∧
        MemKept s t ∧ t.input = s.input ∧ EchoKept s t) ∧
    (s.memAt a ≠ 0 → (s.memAt a).extractLsb' 8 8 ≠ 0#8 → outAnswerAt s 0 = .ok → outAnswerAt s 1 = .ok →
      ∃ t, step s = .next t ∧
        t.output = s.output ++ [(s.memAt a).extractLsb' 0 8, (s.memAt a).extractLsb' 8 8] ∧
        t.job = some { kind := .putsp, cursor := a + 1 } ∧ t.run = .running ∧ RegsKeptBut [] s t ∧ PcCondKept s t ∧
        MemKept s t ∧ t.input = s.input ∧ EchoKept s t) ∧
    (∀ c, s.memAt a ≠ 0 → outAnswerAt s 0 = .fail c → ∃ t, step s = .next t ∧ FailedWith (.ioFailure c) t ∧
      t.output = s.output ∧ RegsKeptBut [] s t ∧ PcCondKept s t ∧ MemKept s t ∧ t.input = s.input ∧ EchoKept s t) ∧
    (∀ c, s.memAt a ≠ 0 → (s.memAt a).extractLsb' 8 8 ≠ 0#8 → outAnswerAt s 0 = .ok → outAnswerAt s 1 = .fail c →
      ∃ t, step s = .next t ∧ FailedWith (.ioFailure c) t ∧ t.output = s.output ++ [(s.memAt a).extractLsb' 0 8] ∧
        RegsKeptBut [] s t ∧ PcCondKept s t ∧ MemKept s t ∧ t.input = s.input ∧ EchoKept s t))

/-- Rule R176: a string over the keyboard-status word reads the keyboard there (under D12). -/
def Obligations.AStringReadsTheKeyboardToo : Prop :=
  ∀ (s : State) (kind : StringKind), s.run = .running → s.job = some { kind := kind, cursor := params.kbsrAddr } →
    (s.nextInput.1 = some (.byte 0) → ∃ t, step s = .next t ∧ t.job = none ∧ t.run = .running ∧ RegsKeptBut [] s t ∧
      PcCondKept s t ∧ KeyboardUpdated 0 s t ∧ InputTaken s t) ∧
    (∀ b, b ≠ 0 → s.nextInput.1 = some (.byte b) → (∀ k < (statusBytes kind).length, outAnswerAt s k = .ok) →
      ∃ t, step s = .next t ∧ t.output = s.output ++ statusBytes kind ∧
        t.outAnswers.drawn = s.outAnswers.drawn + (statusBytes kind).length ∧
        t.job = some { kind := kind, cursor := params.kbsrAddr + 1 } ∧ t.run = .running ∧ RegsKeptBut [] s t ∧
        PcCondKept s t ∧ KeyboardUpdated b s t ∧ t.input = s.nextInput.2 ∧ EchoKept s t) ∧
    (∀ b k c, b ≠ 0 → s.nextInput.1 = some (.byte b) → k < (statusBytes kind).length → (∀ m < k, outAnswerAt s m = .ok) →
      outAnswerAt s k = .fail c →
      ∃ t, step s = .next t ∧ FailedWith (.ioFailure c) t ∧ t.output = s.output ++ (statusBytes kind).take k ∧
        RegsKeptBut [] s t ∧ PcCondKept s t ∧ KeyboardUpdated b s t ∧ t.input = s.nextInput.2 ∧ EchoKept s t) ∧
    (∀ c, s.nextInput.1 = some (.fail c) → ∃ t, step s = .next t ∧ StoppedAtRead c s t) ∧
    (s.nextInput.1 = none → step s = .refused .inputNeverAnswered)

/-- A whole string: from its first word, PUTS or PUTSP emits the bytes of every word up to the zero word and is then
over, in one micro-step per word (rules R175, R177, R180). The string does not run over the keyboard-status word. -/
def Obligations.AWholeStringIsEmitted : Prop :=
  ∀ (s : State) (kind : StringKind) (a : Word) (ws : List Word), s.run = .running →
    s.job = some { kind := kind, cursor := a } →
    (∀ k : Nat, k ≤ ws.length → a + BitVec.ofNat 16 k ≠ params.kbsrAddr) →
    (∀ k : Nat, ∀ h : k < ws.length, ws[k] ≠ 0 ∧ s.memAt (a + BitVec.ofNat 16 k) = ws[k]) →
    s.memAt (a + BitVec.ofNat 16 ws.length) = 0 →
    (∀ m < (ws.flatMap (stringBytes kind)).length, outAnswerAt s m = .ok) →
    ∃ t : State, Host.Core.run Sys2Proof.core (ws.length + 1) s = .next t ∧
      t.output = s.output ++ ws.flatMap (stringBytes kind) ∧ t.job = none ∧ t.run = .running ∧ RegsKeptBut [] s t ∧
      PcCondKept s t ∧ MemKept s t ∧ t.input = s.input ∧ EchoKept s t

/-- Rule R182: HALT. -/
def Obligations.HaltFollowsItsRule : Prop :=
  (∀ w : Word, opAt w = params.opcode .trap → w.extractLsb' 0 8 = params.vector .halt → decode w = .trapHalt) ∧
  (∀ s : State, ∃ t, exec .trapHalt s = .next t ∧ t.run = .halted ∧ Trapped s t ∧ t.cond = s.cond ∧
    RegsKeptBut [.r7] s t ∧ t.job = s.job ∧ MemKept s t ∧ StreamsKept s t)

/-- Rule R183: a trap vector with no handler. -/
def Obligations.UnrecognizedTrapFollowsItsRule : Prop :=
  (∀ w : Word, opAt w = params.opcode .trap →
    (∀ t : TrapService, w.extractLsb' 0 8 ≠ params.vector t) →
    decode w = .trapOther (w.extractLsb' 0 8)) ∧
  (∀ (s : State) (v : BitVec 8), ∃ t, exec (.trapOther v) s = .next t ∧ FailedWith (.unrecognizedTrap v) t ∧
    Trapped s t ∧ t.cond = s.cond ∧ RegsKeptBut [.r7] s t ∧ MemKept s t ∧ StreamsKept s t)

/-! The unimplemented opcodes -/

/-- Rule R200: RTI. -/
def Obligations.RtiFollowsItsRule : Prop :=
  (∀ w : Word, opAt w = params.opcode .rti → decode w = .rti) ∧
  (∀ s : State, ∃ t, exec .rti s = .next t ∧ FailedWith (.unhandledOpcode (params.opcode .rti)) t ∧ RegsKeptBut [] s t ∧
    PcCondKept s t ∧
    MemKept s t ∧ StreamsKept s t)

/-- Rule R201: the reserved opcode. -/
def Obligations.ReservedOpcodeFollowsItsRule : Prop :=
  (∀ w : Word, opAt w = params.opcode .reserved → decode w = .reserved) ∧
  (∀ s : State, ∃ t, exec .reserved s = .next t ∧ FailedWith (.unhandledOpcode (params.opcode .reserved)) t ∧
    RegsKeptBut [] s t ∧
    PcCondKept s t ∧ MemKept s t ∧ StreamsKept s t)
end

