-- ==== Sys2Proof/Laws/Decode.lean ====
section
/-! SUPPORT. The laws of the decoder's and the encoder's parts: the two tables, the register numbers, and what a field
reads of a word that fields were placed in. -/

namespace Sys2Proof

open Machine

/-- All sixteen opcode values are assigned (rule R80): the table's lookup finds the value looked up. -/
theorem opcode_opcodeOf (b : BitVec 4) : params.opcode (opcodeOf b) = b := by
  revert b; decide

@[simp] theorem opcodeOf_opcode (o : Opcode) : opcodeOf (params.opcode o) = o := by
  cases o <;> decide

@[simp] theorem regOfBits_regBits (r : Reg) : regOfBits (regBits r) = r := by
  cases r <;> decide

@[simp] theorem regBits_regOfBits (b : BitVec 3) : regBits (regOfBits b) = b := by
  revert b; decide

@[simp] theorem serviceOf_vector (t : TrapService) : serviceOf (params.vector t) = some t := by
  cases t <;> decide

/-- A vector has the handler whose number it is (rule R88). -/
theorem vector_of_serviceOf {v : BitVec 8} {t : TrapService} (h : serviceOf v = some t) : params.vector t = v := by
  have := List.find?_some h
  simpa using this

/-- A bit of a word that holds one field. -/
theorem getLsbD_place {n : Nat} (pos : Nat) (f : BitVec n) (i : Nat) :
    (place pos f).getLsbD i = (decide (i < 16) && !decide (i < pos) && f.getLsbD (i - pos)) := by
  by_cases hi : i < 16
  · simp [place, hi]
  · simp [place, hi]

/-- A bit of a word that holds an immediate. -/
theorem getLsbD_placeImm {n : Nat} (f : BitVec n) (i : Nat) :
    (placeImm f).getLsbD i = (decide (i < 16) && f.getLsbD i) := by
  rw [placeImm, getLsbD_place, show params.posImm = 0 from rfl]
  simp

/-- An immediate field has no bit where a mask has one, if the mask has none in the field. -/
theorem placeImm_and {n : Nat} (f : BitVec n) (m : Word) (h : ∀ i < n, m.getLsbD i = false) : placeImm f &&& m = 0 := by
  apply BitVec.eq_of_getLsbD_eq
  intro i hi
  have e : (placeImm f).getLsbD i = f.getLsbD i := by
    rw [getLsbD_placeImm, decide_eq_true hi, Bool.true_and]
  rw [BitVec.getLsbD_and, e]
  by_cases hin : i < n
  · simp [h i hin]
  · simp [BitVec.getLsbD_of_ge f i (by omega)]

/-- The low bits of a word that holds an immediate are the immediate. -/
theorem extract_placeImm {n : Nat} (f : BitVec n) (hn : n ≤ 16) : (placeImm f).extractLsb' 0 n = f := by
  apply BitVec.eq_of_getLsbD_eq
  intro i hi
  have h16 : i < 16 := by omega
  rw [BitVec.getLsbD_extractLsb', getLsbD_placeImm, Nat.zero_add, decide_eq_true hi, decide_eq_true h16, Bool.true_and,
    Bool.true_and]

/-- Above an immediate field the word that holds it is zero. -/
theorem extract_placeImm_above {n : Nat} (f : BitVec n) (pos len : Nat) (h : n ≤ pos) :
    (placeImm f).extractLsb' pos len = 0 := by
  apply BitVec.eq_of_getLsbD_eq
  intro i hi
  rw [BitVec.getLsbD_extractLsb', getLsbD_placeImm, BitVec.getLsbD_of_ge f (pos + i) (by omega)]
  simp

/-- A bit above an immediate field is zero. -/
theorem getLsbD_placeImm_above {n : Nat} (f : BitVec n) (i : Nat) (h : n ≤ i) : (placeImm f).getLsbD i = false := by
  rw [getLsbD_placeImm, BitVec.getLsbD_of_ge f i h, Bool.and_false]

/-- The second dispatch answers a well-formed row, and never the generic one. -/
theorem trapRow_wellFormed (v : BitVec 8) : (trapRow v).wellFormed ∧ ∀ u, trapRow v ≠ .trap u := by
  unfold trapRow
  split
  case h_7 h => exact ⟨by simp [Instr.wellFormed, h], fun u e => by cases e⟩
  all_goals exact ⟨rfl, fun u e => by cases e⟩

end Sys2Proof
end

