-- ==== Sys2Proof/Laws/State.lean ====
section
/-! SUPPORT. One lemma per field per update of the state, true by rfl, so that no proof unfolds a record update; and what
a register holds after a register write. -/

namespace Sys2Proof.Machine

@[simp] theorem State.withRegs_regs (s : State) (v : Regs) : (s.withRegs v).regs = v := rfl
@[simp] theorem State.withRegs_pc (s : State) (v : Regs) : (s.withRegs v).pc = s.pc := rfl
@[simp] theorem State.withRegs_cond (s : State) (v : Regs) : (s.withRegs v).cond = s.cond := rfl
@[simp] theorem State.withRegs_mem (s : State) (v : Regs) : (s.withRegs v).mem = s.mem := rfl
@[simp] theorem State.withRegs_run (s : State) (v : Regs) : (s.withRegs v).run = s.run := rfl
@[simp] theorem State.withRegs_job (s : State) (v : Regs) : (s.withRegs v).job = s.job := rfl
@[simp] theorem State.withRegs_input (s : State) (v : Regs) : (s.withRegs v).input = s.input := rfl
@[simp] theorem State.withRegs_outAnswers (s : State) (v : Regs) : (s.withRegs v).outAnswers = s.outAnswers := rfl
@[simp] theorem State.withRegs_echoAnswers (s : State) (v : Regs) : (s.withRegs v).echoAnswers = s.echoAnswers := rfl
@[simp] theorem State.withRegs_output (s : State) (v : Regs) : (s.withRegs v).output = s.output := rfl
@[simp] theorem State.withRegs_echo (s : State) (v : Regs) : (s.withRegs v).echo = s.echo := rfl

@[simp] theorem State.withPc_regs (s : State) (v : Word) : (s.withPc v).regs = s.regs := rfl
@[simp] theorem State.withPc_pc (s : State) (v : Word) : (s.withPc v).pc = v := rfl
@[simp] theorem State.withPc_cond (s : State) (v : Word) : (s.withPc v).cond = s.cond := rfl
@[simp] theorem State.withPc_mem (s : State) (v : Word) : (s.withPc v).mem = s.mem := rfl
@[simp] theorem State.withPc_run (s : State) (v : Word) : (s.withPc v).run = s.run := rfl
@[simp] theorem State.withPc_job (s : State) (v : Word) : (s.withPc v).job = s.job := rfl
@[simp] theorem State.withPc_input (s : State) (v : Word) : (s.withPc v).input = s.input := rfl
@[simp] theorem State.withPc_outAnswers (s : State) (v : Word) : (s.withPc v).outAnswers = s.outAnswers := rfl
@[simp] theorem State.withPc_echoAnswers (s : State) (v : Word) : (s.withPc v).echoAnswers = s.echoAnswers := rfl
@[simp] theorem State.withPc_output (s : State) (v : Word) : (s.withPc v).output = s.output := rfl
@[simp] theorem State.withPc_echo (s : State) (v : Word) : (s.withPc v).echo = s.echo := rfl

@[simp] theorem State.withCond_regs (s : State) (v : Word) : (s.withCond v).regs = s.regs := rfl
@[simp] theorem State.withCond_pc (s : State) (v : Word) : (s.withCond v).pc = s.pc := rfl
@[simp] theorem State.withCond_cond (s : State) (v : Word) : (s.withCond v).cond = v := rfl
@[simp] theorem State.withCond_mem (s : State) (v : Word) : (s.withCond v).mem = s.mem := rfl
@[simp] theorem State.withCond_run (s : State) (v : Word) : (s.withCond v).run = s.run := rfl
@[simp] theorem State.withCond_job (s : State) (v : Word) : (s.withCond v).job = s.job := rfl
@[simp] theorem State.withCond_input (s : State) (v : Word) : (s.withCond v).input = s.input := rfl
@[simp] theorem State.withCond_outAnswers (s : State) (v : Word) : (s.withCond v).outAnswers = s.outAnswers := rfl
@[simp] theorem State.withCond_echoAnswers (s : State) (v : Word) : (s.withCond v).echoAnswers = s.echoAnswers := rfl
@[simp] theorem State.withCond_output (s : State) (v : Word) : (s.withCond v).output = s.output := rfl
@[simp] theorem State.withCond_echo (s : State) (v : Word) : (s.withCond v).echo = s.echo := rfl

@[simp] theorem State.withMem_regs (s : State) (v : Memory) : (s.withMem v).regs = s.regs := rfl
@[simp] theorem State.withMem_pc (s : State) (v : Memory) : (s.withMem v).pc = s.pc := rfl
@[simp] theorem State.withMem_cond (s : State) (v : Memory) : (s.withMem v).cond = s.cond := rfl
@[simp] theorem State.withMem_mem (s : State) (v : Memory) : (s.withMem v).mem = v := rfl
@[simp] theorem State.withMem_run (s : State) (v : Memory) : (s.withMem v).run = s.run := rfl
@[simp] theorem State.withMem_job (s : State) (v : Memory) : (s.withMem v).job = s.job := rfl
@[simp] theorem State.withMem_input (s : State) (v : Memory) : (s.withMem v).input = s.input := rfl
@[simp] theorem State.withMem_outAnswers (s : State) (v : Memory) : (s.withMem v).outAnswers = s.outAnswers := rfl
@[simp] theorem State.withMem_echoAnswers (s : State) (v : Memory) : (s.withMem v).echoAnswers = s.echoAnswers := rfl
@[simp] theorem State.withMem_output (s : State) (v : Memory) : (s.withMem v).output = s.output := rfl
@[simp] theorem State.withMem_echo (s : State) (v : Memory) : (s.withMem v).echo = s.echo := rfl

@[simp] theorem State.withRun_regs (s : State) (v : RunState) : (s.withRun v).regs = s.regs := rfl
@[simp] theorem State.withRun_pc (s : State) (v : RunState) : (s.withRun v).pc = s.pc := rfl
@[simp] theorem State.withRun_cond (s : State) (v : RunState) : (s.withRun v).cond = s.cond := rfl
@[simp] theorem State.withRun_mem (s : State) (v : RunState) : (s.withRun v).mem = s.mem := rfl
@[simp] theorem State.withRun_run (s : State) (v : RunState) : (s.withRun v).run = v := rfl
@[simp] theorem State.withRun_job (s : State) (v : RunState) : (s.withRun v).job = s.job := rfl
@[simp] theorem State.withRun_input (s : State) (v : RunState) : (s.withRun v).input = s.input := rfl
@[simp] theorem State.withRun_outAnswers (s : State) (v : RunState) : (s.withRun v).outAnswers = s.outAnswers := rfl
@[simp] theorem State.withRun_echoAnswers (s : State) (v : RunState) : (s.withRun v).echoAnswers = s.echoAnswers := rfl
@[simp] theorem State.withRun_output (s : State) (v : RunState) : (s.withRun v).output = s.output := rfl
@[simp] theorem State.withRun_echo (s : State) (v : RunState) : (s.withRun v).echo = s.echo := rfl

@[simp] theorem State.withJob_regs (s : State) (v : Option StringJob) : (s.withJob v).regs = s.regs := rfl
@[simp] theorem State.withJob_pc (s : State) (v : Option StringJob) : (s.withJob v).pc = s.pc := rfl
@[simp] theorem State.withJob_cond (s : State) (v : Option StringJob) : (s.withJob v).cond = s.cond := rfl
@[simp] theorem State.withJob_mem (s : State) (v : Option StringJob) : (s.withJob v).mem = s.mem := rfl
@[simp] theorem State.withJob_run (s : State) (v : Option StringJob) : (s.withJob v).run = s.run := rfl
@[simp] theorem State.withJob_job (s : State) (v : Option StringJob) : (s.withJob v).job = v := rfl
@[simp] theorem State.withJob_input (s : State) (v : Option StringJob) : (s.withJob v).input = s.input := rfl
@[simp] theorem State.withJob_outAnswers (s : State) (v : Option StringJob) : (s.withJob v).outAnswers = s.outAnswers := rfl
@[simp] theorem State.withJob_echoAnswers (s : State) (v : Option StringJob) : (s.withJob v).echoAnswers = s.echoAnswers := rfl
@[simp] theorem State.withJob_output (s : State) (v : Option StringJob) : (s.withJob v).output = s.output := rfl
@[simp] theorem State.withJob_echo (s : State) (v : Option StringJob) : (s.withJob v).echo = s.echo := rfl

@[simp] theorem State.withInput_regs (s : State) (v : Supply (Option InAnswer)) : (s.withInput v).regs = s.regs := rfl
@[simp] theorem State.withInput_pc (s : State) (v : Supply (Option InAnswer)) : (s.withInput v).pc = s.pc := rfl
@[simp] theorem State.withInput_cond (s : State) (v : Supply (Option InAnswer)) : (s.withInput v).cond = s.cond := rfl
@[simp] theorem State.withInput_mem (s : State) (v : Supply (Option InAnswer)) : (s.withInput v).mem = s.mem := rfl
@[simp] theorem State.withInput_run (s : State) (v : Supply (Option InAnswer)) : (s.withInput v).run = s.run := rfl
@[simp] theorem State.withInput_job (s : State) (v : Supply (Option InAnswer)) : (s.withInput v).job = s.job := rfl
@[simp] theorem State.withInput_input (s : State) (v : Supply (Option InAnswer)) : (s.withInput v).input = v := rfl
@[simp] theorem State.withInput_outAnswers (s : State) (v : Supply (Option InAnswer)) : (s.withInput v).outAnswers = s.outAnswers := rfl
@[simp] theorem State.withInput_echoAnswers (s : State) (v : Supply (Option InAnswer)) : (s.withInput v).echoAnswers = s.echoAnswers := rfl
@[simp] theorem State.withInput_output (s : State) (v : Supply (Option InAnswer)) : (s.withInput v).output = s.output := rfl
@[simp] theorem State.withInput_echo (s : State) (v : Supply (Option InAnswer)) : (s.withInput v).echo = s.echo := rfl

@[simp] theorem State.withOutAnswers_regs (s : State) (v : Supply OutAnswer) : (s.withOutAnswers v).regs = s.regs := rfl
@[simp] theorem State.withOutAnswers_pc (s : State) (v : Supply OutAnswer) : (s.withOutAnswers v).pc = s.pc := rfl
@[simp] theorem State.withOutAnswers_cond (s : State) (v : Supply OutAnswer) : (s.withOutAnswers v).cond = s.cond := rfl
@[simp] theorem State.withOutAnswers_mem (s : State) (v : Supply OutAnswer) : (s.withOutAnswers v).mem = s.mem := rfl
@[simp] theorem State.withOutAnswers_run (s : State) (v : Supply OutAnswer) : (s.withOutAnswers v).run = s.run := rfl
@[simp] theorem State.withOutAnswers_job (s : State) (v : Supply OutAnswer) : (s.withOutAnswers v).job = s.job := rfl
@[simp] theorem State.withOutAnswers_input (s : State) (v : Supply OutAnswer) : (s.withOutAnswers v).input = s.input := rfl
@[simp] theorem State.withOutAnswers_outAnswers (s : State) (v : Supply OutAnswer) : (s.withOutAnswers v).outAnswers = v := rfl
@[simp] theorem State.withOutAnswers_echoAnswers (s : State) (v : Supply OutAnswer) : (s.withOutAnswers v).echoAnswers = s.echoAnswers := rfl
@[simp] theorem State.withOutAnswers_output (s : State) (v : Supply OutAnswer) : (s.withOutAnswers v).output = s.output := rfl
@[simp] theorem State.withOutAnswers_echo (s : State) (v : Supply OutAnswer) : (s.withOutAnswers v).echo = s.echo := rfl

@[simp] theorem State.withEchoAnswers_regs (s : State) (v : Supply OutAnswer) : (s.withEchoAnswers v).regs = s.regs := rfl
@[simp] theorem State.withEchoAnswers_pc (s : State) (v : Supply OutAnswer) : (s.withEchoAnswers v).pc = s.pc := rfl
@[simp] theorem State.withEchoAnswers_cond (s : State) (v : Supply OutAnswer) : (s.withEchoAnswers v).cond = s.cond := rfl
@[simp] theorem State.withEchoAnswers_mem (s : State) (v : Supply OutAnswer) : (s.withEchoAnswers v).mem = s.mem := rfl
@[simp] theorem State.withEchoAnswers_run (s : State) (v : Supply OutAnswer) : (s.withEchoAnswers v).run = s.run := rfl
@[simp] theorem State.withEchoAnswers_job (s : State) (v : Supply OutAnswer) : (s.withEchoAnswers v).job = s.job := rfl
@[simp] theorem State.withEchoAnswers_input (s : State) (v : Supply OutAnswer) : (s.withEchoAnswers v).input = s.input := rfl
@[simp] theorem State.withEchoAnswers_outAnswers (s : State) (v : Supply OutAnswer) : (s.withEchoAnswers v).outAnswers = s.outAnswers := rfl
@[simp] theorem State.withEchoAnswers_echoAnswers (s : State) (v : Supply OutAnswer) : (s.withEchoAnswers v).echoAnswers = v := rfl
@[simp] theorem State.withEchoAnswers_output (s : State) (v : Supply OutAnswer) : (s.withEchoAnswers v).output = s.output := rfl
@[simp] theorem State.withEchoAnswers_echo (s : State) (v : Supply OutAnswer) : (s.withEchoAnswers v).echo = s.echo := rfl

@[simp] theorem State.withOutput_regs (s : State) (v : List Byte) : (s.withOutput v).regs = s.regs := rfl
@[simp] theorem State.withOutput_pc (s : State) (v : List Byte) : (s.withOutput v).pc = s.pc := rfl
@[simp] theorem State.withOutput_cond (s : State) (v : List Byte) : (s.withOutput v).cond = s.cond := rfl
@[simp] theorem State.withOutput_mem (s : State) (v : List Byte) : (s.withOutput v).mem = s.mem := rfl
@[simp] theorem State.withOutput_run (s : State) (v : List Byte) : (s.withOutput v).run = s.run := rfl
@[simp] theorem State.withOutput_job (s : State) (v : List Byte) : (s.withOutput v).job = s.job := rfl
@[simp] theorem State.withOutput_input (s : State) (v : List Byte) : (s.withOutput v).input = s.input := rfl
@[simp] theorem State.withOutput_outAnswers (s : State) (v : List Byte) : (s.withOutput v).outAnswers = s.outAnswers := rfl
@[simp] theorem State.withOutput_echoAnswers (s : State) (v : List Byte) : (s.withOutput v).echoAnswers = s.echoAnswers := rfl
@[simp] theorem State.withOutput_output (s : State) (v : List Byte) : (s.withOutput v).output = v := rfl
@[simp] theorem State.withOutput_echo (s : State) (v : List Byte) : (s.withOutput v).echo = s.echo := rfl

@[simp] theorem State.withEcho_regs (s : State) (v : List Byte) : (s.withEcho v).regs = s.regs := rfl
@[simp] theorem State.withEcho_pc (s : State) (v : List Byte) : (s.withEcho v).pc = s.pc := rfl
@[simp] theorem State.withEcho_cond (s : State) (v : List Byte) : (s.withEcho v).cond = s.cond := rfl
@[simp] theorem State.withEcho_mem (s : State) (v : List Byte) : (s.withEcho v).mem = s.mem := rfl
@[simp] theorem State.withEcho_run (s : State) (v : List Byte) : (s.withEcho v).run = s.run := rfl
@[simp] theorem State.withEcho_job (s : State) (v : List Byte) : (s.withEcho v).job = s.job := rfl
@[simp] theorem State.withEcho_input (s : State) (v : List Byte) : (s.withEcho v).input = s.input := rfl
@[simp] theorem State.withEcho_outAnswers (s : State) (v : List Byte) : (s.withEcho v).outAnswers = s.outAnswers := rfl
@[simp] theorem State.withEcho_echoAnswers (s : State) (v : List Byte) : (s.withEcho v).echoAnswers = s.echoAnswers := rfl
@[simp] theorem State.withEcho_output (s : State) (v : List Byte) : (s.withEcho v).output = s.output := rfl
@[simp] theorem State.withEcho_echo (s : State) (v : List Byte) : (s.withEcho v).echo = v := rfl

@[simp] theorem Regs.get_set_same (g : Regs) (r : Reg) (v : Word) : (g.set r v).get r = v := by
  cases r <;> rfl

theorem Regs.get_set_other (g : Regs) {r q : Reg} (v : Word) (h : q ≠ r) : (g.set r v).get q = g.get q := by
  cases r <;> cases q <;> first | rfl | exact absurd rfl h

theorem Regs.get_set (g : Regs) (r q : Reg) (v : Word) : (g.set r v).get q = if q = r then v else g.get q := by
  split
  · next h => subst h; exact Regs.get_set_same g q v
  · next h => exact Regs.get_set_other g v h

@[simp] theorem State.withPc_reg (s : State) (v : Word) (r : Reg) : (s.withPc v).reg r = s.reg r := rfl
@[simp] theorem State.withCond_reg (s : State) (v : Word) (r : Reg) : (s.withCond v).reg r = s.reg r := rfl
@[simp] theorem State.withMem_reg (s : State) (v : Memory) (r : Reg) : (s.withMem v).reg r = s.reg r := rfl
@[simp] theorem State.withRun_reg (s : State) (v : RunState) (r : Reg) : (s.withRun v).reg r = s.reg r := rfl
@[simp] theorem State.withJob_reg (s : State) (v : Option StringJob) (r : Reg) : (s.withJob v).reg r = s.reg r := rfl
@[simp] theorem State.withInput_reg (s : State) (v : Supply (Option InAnswer)) (r : Reg) : (s.withInput v).reg r = s.reg r := rfl
@[simp] theorem State.withOutAnswers_reg (s : State) (v : Supply OutAnswer) (r : Reg) : (s.withOutAnswers v).reg r = s.reg r := rfl
@[simp] theorem State.withEchoAnswers_reg (s : State) (v : Supply OutAnswer) (r : Reg) : (s.withEchoAnswers v).reg r = s.reg r := rfl
@[simp] theorem State.withOutput_reg (s : State) (v : List Byte) (r : Reg) : (s.withOutput v).reg r = s.reg r := rfl
@[simp] theorem State.withEcho_reg (s : State) (v : List Byte) (r : Reg) : (s.withEcho v).reg r = s.reg r := rfl

@[simp] theorem State.setReg_pc (s : State) (r : Reg) (v : Word) : (s.setReg r v).pc = s.pc := rfl
@[simp] theorem State.setReg_cond (s : State) (r : Reg) (v : Word) : (s.setReg r v).cond = s.cond := rfl
@[simp] theorem State.setReg_mem (s : State) (r : Reg) (v : Word) : (s.setReg r v).mem = s.mem := rfl
@[simp] theorem State.setReg_run (s : State) (r : Reg) (v : Word) : (s.setReg r v).run = s.run := rfl
@[simp] theorem State.setReg_job (s : State) (r : Reg) (v : Word) : (s.setReg r v).job = s.job := rfl
@[simp] theorem State.setReg_input (s : State) (r : Reg) (v : Word) : (s.setReg r v).input = s.input := rfl
@[simp] theorem State.setReg_outAnswers (s : State) (r : Reg) (v : Word) : (s.setReg r v).outAnswers = s.outAnswers := rfl
@[simp] theorem State.setReg_echoAnswers (s : State) (r : Reg) (v : Word) : (s.setReg r v).echoAnswers = s.echoAnswers := rfl
@[simp] theorem State.setReg_output (s : State) (r : Reg) (v : Word) : (s.setReg r v).output = s.output := rfl
@[simp] theorem State.setReg_echo (s : State) (r : Reg) (v : Word) : (s.setReg r v).echo = s.echo := rfl

@[simp] theorem State.setReg_reg_same (s : State) (r : Reg) (v : Word) : (s.setReg r v).reg r = v :=
  Regs.get_set_same s.regs r v

theorem State.setReg_reg_other (s : State) {r q : Reg} (v : Word) (h : q ≠ r) : (s.setReg r v).reg q = s.reg q :=
  Regs.get_set_other s.regs v h

theorem State.setReg_reg (s : State) (r q : Reg) (v : Word) : (s.setReg r v).reg q = if q = r then v else s.reg q :=
  Regs.get_set s.regs r q v

end Sys2Proof.Machine
end

