-- ==== Sys2Proof/Laws/Memory.lean ====
section
/-! SUPPORT. The laws of memory: what a read answers after a write, and that a write keeps the canonical form. -/

namespace Sys2Proof.Machine

theorem Memory.read_insert_same (m : Memory) (a : Nat) (v : Word) (h : ∀ c ∈ m, c.1 ≠ a) :
    (Memory.insert m a v).read a = v := by
  induction m with
  | nil => simp [Memory.insert, Memory.read]
  | cons c rest ih =>
    have hc : c.1 ≠ a := h c (by simp)
    have hr : ∀ d ∈ rest, d.1 ≠ a := fun d hd => h d (by simp [hd])
    simp only [Memory.insert]
    split
    · simp [Memory.read]
    · simp [Memory.read, hc, ih hr]

theorem Memory.read_insert_other (m : Memory) {a b : Nat} (v : Word) (h : b ≠ a) :
    (Memory.insert m a v).read b = m.read b := by
  induction m with
  | nil => simp [Memory.insert, Memory.read, Ne.symm h]
  | cons c rest ih =>
    simp only [Memory.insert]
    split
    · simp [Memory.read, Ne.symm h]
    · simp [Memory.read, ih]

theorem Memory.read_filter_other (m : Memory) {a b : Nat} (h : b ≠ a) :
    Memory.read (m.filter fun c => c.1 != a) b = m.read b := by
  induction m with
  | nil => rfl
  | cons c rest ih =>
    by_cases hc : c.1 = a
    · have hb : ¬ c.1 = b := fun e => h (e.symm.trans hc)
      simp [hc, Memory.read, ih, Ne.symm h]
    · simp [hc, Memory.read, ih]

theorem Memory.read_eq_unlisted (m : Memory) {a : Nat} (h : ∀ c ∈ m, c.1 ≠ a) : m.read a = Memory.unlisted := by
  induction m with
  | nil => rfl
  | cons c rest ih =>
    simp [Memory.read, h c (by simp), ih fun d hd => h d (by simp [hd])]

theorem Memory.filter_ne (m : Memory) (a : Nat) : ∀ c ∈ m.filter (fun c => c.1 != a), c.1 ≠ a := by
  intro c hc
  simpa using (List.mem_filter.mp hc).2

/-- A read of the address written answers the word written. -/
@[simp] theorem Memory.read_write_same (m : Memory) (a : Nat) (v : Word) : (m.write a v).read a = v := by
  simp only [Memory.write]
  split
  · next h => exact (Memory.read_eq_unlisted _ (Memory.filter_ne m a)).trans h.symm
  · exact Memory.read_insert_same _ a v (Memory.filter_ne m a)

/-- A write leaves every other address alone. -/
theorem Memory.read_write_other (m : Memory) {a b : Nat} (v : Word) (h : b ≠ a) : (m.write a v).read b = m.read b := by
  simp only [Memory.write]
  split
  · exact Memory.read_filter_other m h
  · exact (Memory.read_insert_other _ v h).trans (Memory.read_filter_other m h)

theorem Memory.read_write (m : Memory) (a b : Nat) (v : Word) : (m.write a v).read b = if b = a then v else m.read b := by
  split
  · next h => subst h; exact Memory.read_write_same m b v
  · next h => exact Memory.read_write_other m v h

theorem Memory.mem_insert {m : Memory} {a : Nat} {v : Word} {c : Nat × Word} :
    c ∈ Memory.insert m a v ↔ c = (a, v) ∨ c ∈ m := by
  induction m with
  | nil => simp [Memory.insert]
  | cons d rest ih =>
    simp only [Memory.insert]
    split
    · simp
    · simp only [List.mem_cons, ih]
      tauto

theorem Memory.insert_rising {m : Memory} {a : Nat} {v : Word} (hm : m.Pairwise fun c d => c.1 < d.1)
    (ha : ∀ c ∈ m, c.1 ≠ a) : (Memory.insert m a v).Pairwise fun c d => c.1 < d.1 := by
  induction m with
  | nil => simp [Memory.insert]
  | cons c rest ih =>
    obtain ⟨hc, hrest⟩ := List.pairwise_cons.mp hm
    have hne : c.1 ≠ a := ha c (by simp)
    simp only [Memory.insert]
    split
    · next hlt =>
      refine List.pairwise_cons.mpr ⟨?_, hm⟩
      intro d hd
      rcases List.mem_cons.mp hd with rfl | hd
      · exact hlt
      · exact Nat.lt_trans hlt (hc d hd)
    · next hge =>
      refine List.pairwise_cons.mpr ⟨?_, ih hrest fun d hd => ha d (by simp [hd])⟩
      intro d hd
      rcases Memory.mem_insert.mp hd with rfl | hd
      · show c.1 < a
        omega
      · exact hc d hd

/-- The empty memory is in the canonical form. -/
theorem Memory.wf_nil : Memory.wf [] := by simp [Memory.wf]

/-- A write inside the address space keeps the canonical form. -/
theorem Memory.write_wf {m : Memory} (h : m.wf) {a : Nat} (ha : a < 65536) (v : Word) : (m.write a v).wf := by
  obtain ⟨hr, hc⟩ := h
  have hf : (m.filter fun c => c.1 != a).Pairwise fun c d => c.1 < d.1 := hr.filter _
  have hfc : ∀ c ∈ m.filter (fun c => c.1 != a), c.1 < 65536 ∧ c.2 ≠ Memory.unlisted :=
    fun c hm => hc c (List.mem_filter.mp hm).1
  simp only [Memory.write]
  split
  · exact ⟨hf, hfc⟩
  · next hv =>
    refine ⟨Memory.insert_rising hf (Memory.filter_ne m a), fun c hm => ?_⟩
    rcases Memory.mem_insert.mp hm with rfl | hm
    · exact ⟨ha, hv⟩
    · exact hfc c hm

@[simp] theorem State.withRegs_memAt (s : State) (v : Regs) (a : Word) : (s.withRegs v).memAt a = s.memAt a := rfl
@[simp] theorem State.withPc_memAt (s : State) (v a : Word) : (s.withPc v).memAt a = s.memAt a := rfl
@[simp] theorem State.withCond_memAt (s : State) (v a : Word) : (s.withCond v).memAt a = s.memAt a := rfl
@[simp] theorem State.withRun_memAt (s : State) (v : RunState) (a : Word) : (s.withRun v).memAt a = s.memAt a := rfl
@[simp] theorem State.withJob_memAt (s : State) (v : Option StringJob) (a : Word) : (s.withJob v).memAt a = s.memAt a := rfl
@[simp] theorem State.withInput_memAt (s : State) (v : Supply (Option InAnswer)) (a : Word) :
    (s.withInput v).memAt a = s.memAt a := rfl
@[simp] theorem State.setReg_memAt (s : State) (r : Reg) (v a : Word) : (s.setReg r v).memAt a = s.memAt a := rfl

/-- Two words are the same address of memory just where they are the same word. -/
theorem toNat_ne {a b : Word} (h : a ≠ b) : a.toNat ≠ b.toNat := fun e => h (BitVec.eq_of_toNat_eq e)

/-- `MemWrite`, then the word at the address written. -/
@[simp] theorem memWrite_memAt_same (s : State) (a v : Word) : (memWrite a v s).memAt a = v :=
  Memory.read_write_same s.mem a.toNat v

/-- `MemWrite`, then the word at another address. -/
theorem memWrite_memAt_other (s : State) {a b : Word} (v : Word) (h : b ≠ a) : (memWrite a v s).memAt b = s.memAt b :=
  Memory.read_write_other s.mem v (toNat_ne h)

theorem memWrite_memAt (s : State) (a b v : Word) : (memWrite a v s).memAt b = if b = a then v else s.memAt b := by
  split
  · next h => subst h; exact memWrite_memAt_same s b v
  · next h => exact memWrite_memAt_other s v h

end Sys2Proof.Machine
end

