-- ==== Sys2Proof/Laws/Ops.lean ====
section
/-! SUPPORT. One lemma per shared operation that says everything it can do, for the proofs to cite instead of unfolding
it: what it changes, what it leaves, and how the step ends after it. -/

namespace Sys2Proof.Machine

@[simp] theorem memWrite_regs (s : State) (a v : Word) : (memWrite a v s).regs = s.regs := rfl
@[simp] theorem memWrite_pc (s : State) (a v : Word) : (memWrite a v s).pc = s.pc := rfl
@[simp] theorem memWrite_cond (s : State) (a v : Word) : (memWrite a v s).cond = s.cond := rfl
@[simp] theorem memWrite_run (s : State) (a v : Word) : (memWrite a v s).run = s.run := rfl
@[simp] theorem memWrite_job (s : State) (a v : Word) : (memWrite a v s).job = s.job := rfl
@[simp] theorem memWrite_input (s : State) (a v : Word) : (memWrite a v s).input = s.input := rfl
@[simp] theorem memWrite_outAnswers (s : State) (a v : Word) : (memWrite a v s).outAnswers = s.outAnswers := rfl
@[simp] theorem memWrite_echoAnswers (s : State) (a v : Word) : (memWrite a v s).echoAnswers = s.echoAnswers := rfl
@[simp] theorem memWrite_output (s : State) (a v : Word) : (memWrite a v s).output = s.output := rfl
@[simp] theorem memWrite_echo (s : State) (a v : Word) : (memWrite a v s).echo = s.echo := rfl
@[simp] theorem memWrite_reg (s : State) (a v : Word) (r : Reg) : (memWrite a v s).reg r = s.reg r := rfl

@[simp] theorem raise_regs (f : Fault) (s : State) : (raise f s).regs = s.regs := rfl
@[simp] theorem raise_pc (f : Fault) (s : State) : (raise f s).pc = s.pc := rfl
@[simp] theorem raise_cond (f : Fault) (s : State) : (raise f s).cond = s.cond := rfl
@[simp] theorem raise_mem (f : Fault) (s : State) : (raise f s).mem = s.mem := rfl
@[simp] theorem raise_input (f : Fault) (s : State) : (raise f s).input = s.input := rfl
@[simp] theorem raise_outAnswers (f : Fault) (s : State) : (raise f s).outAnswers = s.outAnswers := rfl
@[simp] theorem raise_echoAnswers (f : Fault) (s : State) : (raise f s).echoAnswers = s.echoAnswers := rfl
@[simp] theorem raise_output (f : Fault) (s : State) : (raise f s).output = s.output := rfl
@[simp] theorem raise_echo (f : Fault) (s : State) : (raise f s).echo = s.echo := rfl
@[simp] theorem raise_run (f : Fault) (s : State) : (raise f s).run = .failed f := rfl
@[simp] theorem raise_job (f : Fault) (s : State) : (raise f s).job = none := rfl
@[simp] theorem raise_reg (f : Fault) (s : State) (r : Reg) : (raise f s).reg r = s.reg r := rfl
@[simp] theorem raise_memAt (f : Fault) (s : State) (a : Word) : (raise f s).memAt a = s.memAt a := rfl

@[simp] theorem halt_regs (s : State) : (halt s).regs = s.regs := rfl
@[simp] theorem halt_pc (s : State) : (halt s).pc = s.pc := rfl
@[simp] theorem halt_cond (s : State) : (halt s).cond = s.cond := rfl
@[simp] theorem halt_mem (s : State) : (halt s).mem = s.mem := rfl
@[simp] theorem halt_job (s : State) : (halt s).job = s.job := rfl
@[simp] theorem halt_input (s : State) : (halt s).input = s.input := rfl
@[simp] theorem halt_outAnswers (s : State) : (halt s).outAnswers = s.outAnswers := rfl
@[simp] theorem halt_echoAnswers (s : State) : (halt s).echoAnswers = s.echoAnswers := rfl
@[simp] theorem halt_output (s : State) : (halt s).output = s.output := rfl
@[simp] theorem halt_echo (s : State) : (halt s).echo = s.echo := rfl
@[simp] theorem halt_run (s : State) : (halt s).run = .halted := rfl
@[simp] theorem halt_reg (s : State) (r : Reg) : (halt s).reg r = s.reg r := rfl

@[simp] theorem setcc_regs (r : Reg) (s : State) : (setcc r s).regs = s.regs := rfl
@[simp] theorem setcc_pc (r : Reg) (s : State) : (setcc r s).pc = s.pc := rfl
@[simp] theorem setcc_mem (r : Reg) (s : State) : (setcc r s).mem = s.mem := rfl
@[simp] theorem setcc_run (r : Reg) (s : State) : (setcc r s).run = s.run := rfl
@[simp] theorem setcc_job (r : Reg) (s : State) : (setcc r s).job = s.job := rfl
@[simp] theorem setcc_input (r : Reg) (s : State) : (setcc r s).input = s.input := rfl
@[simp] theorem setcc_outAnswers (r : Reg) (s : State) : (setcc r s).outAnswers = s.outAnswers := rfl
@[simp] theorem setcc_echoAnswers (r : Reg) (s : State) : (setcc r s).echoAnswers = s.echoAnswers := rfl
@[simp] theorem setcc_output (r : Reg) (s : State) : (setcc r s).output = s.output := rfl
@[simp] theorem setcc_echo (r : Reg) (s : State) : (setcc r s).echo = s.echo := rfl
@[simp] theorem setcc_cond (r : Reg) (s : State) : (setcc r s).cond = tagOf (s.reg r) := rfl
@[simp] theorem setcc_reg (r q : Reg) (s : State) : (setcc r s).reg q = s.reg q := rfl

@[simp] theorem writeResult_pc (r : Reg) (v : Word) (s : State) : (writeResult r v s).pc = s.pc := rfl
@[simp] theorem writeResult_mem (r : Reg) (v : Word) (s : State) : (writeResult r v s).mem = s.mem := rfl
@[simp] theorem writeResult_run (r : Reg) (v : Word) (s : State) : (writeResult r v s).run = s.run := rfl
@[simp] theorem writeResult_job (r : Reg) (v : Word) (s : State) : (writeResult r v s).job = s.job := rfl
@[simp] theorem writeResult_input (r : Reg) (v : Word) (s : State) : (writeResult r v s).input = s.input := rfl
@[simp] theorem writeResult_outAnswers (r : Reg) (v : Word) (s : State) : (writeResult r v s).outAnswers = s.outAnswers := rfl
@[simp] theorem writeResult_echoAnswers (r : Reg) (v : Word) (s : State) : (writeResult r v s).echoAnswers = s.echoAnswers := rfl
@[simp] theorem writeResult_output (r : Reg) (v : Word) (s : State) : (writeResult r v s).output = s.output := rfl
@[simp] theorem writeResult_echo (r : Reg) (v : Word) (s : State) : (writeResult r v s).echo = s.echo := rfl
@[simp] theorem writeResult_cond (r : Reg) (v : Word) (s : State) : (writeResult r v s).cond = tagOf v := by
  simp [writeResult]
@[simp] theorem writeResult_reg_same (r : Reg) (v : Word) (s : State) : (writeResult r v s).reg r = v := by
  simp [writeResult]
theorem writeResult_reg (r q : Reg) (v : Word) (s : State) :
    (writeResult r v s).reg q = if q = r then v else s.reg q := by
  simp [writeResult, State.setReg_reg]
@[simp] theorem writeResult_memAt (r : Reg) (v : Word) (s : State) (a : Word) : (writeResult r v s).memAt a = s.memAt a := rfl

@[simp] theorem link_pc (s : State) : (link s).pc = s.pc := rfl
@[simp] theorem link_cond (s : State) : (link s).cond = s.cond := rfl
@[simp] theorem link_mem (s : State) : (link s).mem = s.mem := rfl
@[simp] theorem link_run (s : State) : (link s).run = s.run := rfl
@[simp] theorem link_job (s : State) : (link s).job = s.job := rfl
@[simp] theorem link_input (s : State) : (link s).input = s.input := rfl
@[simp] theorem link_outAnswers (s : State) : (link s).outAnswers = s.outAnswers := rfl
@[simp] theorem link_echoAnswers (s : State) : (link s).echoAnswers = s.echoAnswers := rfl
@[simp] theorem link_output (s : State) : (link s).output = s.output := rfl
@[simp] theorem link_echo (s : State) : (link s).echo = s.echo := rfl
@[simp] theorem link_reg_r7 (s : State) : (link s).reg .r7 = s.pc := State.setReg_reg_same s .r7 s.pc
theorem link_reg (s : State) (q : Reg) : (link s).reg q = if q = .r7 then s.pc else s.reg q :=
  State.setReg_reg s .r7 q s.pc
@[simp] theorem link_memAt (s : State) (a : Word) : (link s).memAt a = s.memAt a := rfl
@[simp] theorem link_nextInput (s : State) : (link s).nextInput = s.nextInput := rfl
@[simp] theorem link_nextOut (s : State) : (link s).nextOut = s.nextOut := rfl
@[simp] theorem link_nextEcho (s : State) : (link s).nextEcho = s.nextEcho := rfl

/-- The tag of a word is one of the three (rules R27, R30). -/
theorem tagOf_cases (v : Word) : tagOf v = params.flZero ∨ tagOf v = params.flNeg ∨ tagOf v = params.flPos := by
  unfold tagOf
  split
  · exact .inl rfl
  · split
    · exact .inr (.inl rfl)
    · exact .inr (.inr rfl)

/-- The tag follows the sign of the word (rule R135). -/
theorem tagOf_sign (v : Word) :
    (v.toNat = 0 → tagOf v = params.flZero) ∧ (0 < v.toNat → v.toNat < 0x8000 → tagOf v = params.flPos) ∧
      (0x8000 ≤ v.toNat → tagOf v = params.flNeg) := by
  have hbit : v.getLsbD 15 = decide (0x8000 ≤ v.toNat) := BitVec.msb_eq_decide v
  have hzero : v = 0 ↔ v.toNat = 0 := ⟨fun h => by simp [h], fun h => BitVec.eq_of_toNat_eq (by simpa using h)⟩
  unfold tagOf
  refine ⟨fun h => if_pos (hzero.mpr h), fun h1 h2 => ?_, fun h => ?_⟩
  · rw [if_neg fun e => by have := hzero.mp e; omega, if_neg (by rw [hbit, decide_eq_true_iff]; omega)]
  · rw [if_neg fun e => by have := hzero.mp e; omega, if_pos (by rw [hbit, decide_eq_true_iff]; exact h)]

/-- How a step ends after an operation: on a value by what follows, on a failure FAILED. -/
theorem Res.finish_next {α : Type} {r : Res α} {k : α → State → State} {t : State} (h : r.finish k = .next t) :
    (∃ a s, r = .done (.ok a) s ∧ t = k a s) ∨ (∃ c s, r = .done (.error c) s ∧ t = raise (.ioFailure c) s) := by
  match r, h with
  | .done (.ok a) s, h => exact .inl ⟨a, s, rfl, by simpa [Res.finish] using h.symm⟩
  | .done (.error c) s, h => exact .inr ⟨c, s, rfl, by simpa [Res.finish] using h.symm⟩

/-- `Res.finish` has no successor only where the request is never answered. -/
theorem Res.finish_stop {α : Type} {r : Res α} {k : α → State → State} :
    (∀ f, r.finish k ≠ .fault f) ∧ (∀ x, r.finish k = .refused x → r = .blocked ∧ x = .inputNeverAnswered) := by
  match r with
  | .done _ _ => exact ⟨fun f h => by simp [Res.finish] at h, fun x h => by simp [Res.finish] at h⟩
  | .blocked => exact ⟨fun f h => by simp [Res.finish] at h, fun x h => ⟨rfl, by simpa [Res.finish] using h.symm⟩⟩

/-- As `Res.finish_next`, for an operation that what follows may stop too. -/
theorem Res.andThen_next {α : Type} {r : Res α} {k : α → State → Outcome} {t : State} (h : r.andThen k = .next t) :
    (∃ a s, r = .done (.ok a) s ∧ k a s = .next t) ∨ (∃ c s, r = .done (.error c) s ∧ t = raise (.ioFailure c) s) := by
  match r, h with
  | .done (.ok a) s, h => exact .inl ⟨a, s, rfl, h⟩
  | .done (.error c) s, h => exact .inr ⟨c, s, rfl, by simpa [Res.andThen] using h.symm⟩

/-- The next answer is the first one listed; with none listed it is the one that follows for ever, or a free one. -/
theorem Supply.draw_cases {α : Type} (free : Nat → α) (q : Supply α) :
    (∃ a rest, q.listed = a :: rest ∧ q.draw free = (a, { q with listed := rest, drawn := q.drawn + 1 })) ∨
    (∃ a, q.listed = [] ∧ (q.later = .always a ∨ (q.later = .free ∧ a = free q.drawn)) ∧
      q.draw free = (a, { q with drawn := q.drawn + 1 })) := by
  obtain ⟨listed, later, drawn⟩ := q
  match listed, later with
  | a :: rest, _ => exact .inl ⟨a, rest, rfl, rfl⟩
  | [], .always a => exact .inr ⟨a, rfl, .inl rfl, rfl⟩
  | [], .free => exact .inr ⟨free drawn, rfl, .inr ⟨rfl, rfl⟩, rfl⟩

/-- Drawing an answer counts one. -/
@[simp] theorem Supply.draw_drawn {α : Type} (free : Nat → α) (q : Supply α) : (q.draw free).2.drawn = q.drawn + 1 := by
  obtain ⟨a, rest, _, h⟩ | ⟨a, _, _, h⟩ := q.draw_cases free <;> rw [h]

/-- `InByte()` answers what the environment answers, and consumes it. -/
theorem inByte_eq (s : State) :
    inByte s = match s.nextInput.1 with
      | none => .blocked
      | some a => .done (answerResult a) (s.withInput s.nextInput.2) := by
  unfold inByte
  split <;> simp_all

/-- What `MemRead(a)` can answer (rules R53, R55): a stored word, with nothing changed; at the keyboard-status address
the status word after the device's update, or a failure with only the answer consumed, or nothing at all. -/
theorem memRead_eq (a : Word) (s : State) :
    memRead a s =
      if a = params.kbsrAddr then
        match s.nextInput.1 with
        | none => .blocked
        | some (.fail c) => .done (.error c) (s.withInput s.nextInput.2)
        | some (.byte b) =>
          .done (.ok ((keyboardUpdate b (s.withInput s.nextInput.2)).memAt params.kbsrAddr))
            (keyboardUpdate b (s.withInput s.nextInput.2))
      else .done (.ok (s.memAt a)) s := by
  unfold memRead
  split
  · rw [inByte_eq]
    match h : s.nextInput.1 with
    | none => rfl
    | some (.fail c) => rfl
    | some (.byte b) => rfl
  · rfl

/-- `MemRead` of any address but the keyboard-status one. -/
theorem memRead_plain {a : Word} (s : State) (h : a ≠ params.kbsrAddr) : memRead a s = .done (.ok (s.memAt a)) s := by
  rw [memRead_eq, if_neg h]

theorem kbdr_ne_kbsr : params.kbdrAddr ≠ params.kbsrAddr := by decide

@[simp] theorem keyboardUpdate_regs (b : Byte) (s : State) : (keyboardUpdate b s).regs = s.regs := by
  unfold keyboardUpdate; repeat (first | rfl | split)
@[simp] theorem keyboardUpdate_pc (b : Byte) (s : State) : (keyboardUpdate b s).pc = s.pc := by
  unfold keyboardUpdate; repeat (first | rfl | split)
@[simp] theorem keyboardUpdate_cond (b : Byte) (s : State) : (keyboardUpdate b s).cond = s.cond := by
  unfold keyboardUpdate; repeat (first | rfl | split)
@[simp] theorem keyboardUpdate_run (b : Byte) (s : State) : (keyboardUpdate b s).run = s.run := by
  unfold keyboardUpdate; repeat (first | rfl | split)
@[simp] theorem keyboardUpdate_job (b : Byte) (s : State) : (keyboardUpdate b s).job = s.job := by
  unfold keyboardUpdate; repeat (first | rfl | split)
@[simp] theorem keyboardUpdate_input (b : Byte) (s : State) : (keyboardUpdate b s).input = s.input := by
  unfold keyboardUpdate; repeat (first | rfl | split)
@[simp] theorem keyboardUpdate_outAnswers (b : Byte) (s : State) : (keyboardUpdate b s).outAnswers = s.outAnswers := by
  unfold keyboardUpdate; repeat (first | rfl | split)
@[simp] theorem keyboardUpdate_echoAnswers (b : Byte) (s : State) : (keyboardUpdate b s).echoAnswers = s.echoAnswers := by
  unfold keyboardUpdate; repeat (first | rfl | split)
@[simp] theorem keyboardUpdate_output (b : Byte) (s : State) : (keyboardUpdate b s).output = s.output := by
  unfold keyboardUpdate; repeat (first | rfl | split)
@[simp] theorem keyboardUpdate_echo (b : Byte) (s : State) : (keyboardUpdate b s).echo = s.echo := by
  unfold keyboardUpdate; repeat (first | rfl | split)
@[simp] theorem keyboardUpdate_reg (b : Byte) (s : State) (r : Reg) : (keyboardUpdate b s).reg r = s.reg r := by
  simp [State.reg]

/-- The status word after the device's update (rules R53, R54). -/
theorem keyboardUpdate_status (b : Byte) (s : State) :
    (keyboardUpdate b s).memAt params.kbsrAddr = if b = 0 then 0 else params.available := by
  unfold keyboardUpdate
  split
  · split
    · exact memWrite_memAt_same s _ 0
    · rw [memWrite_memAt_other _ _ kbdr_ne_kbsr.symm, memWrite_memAt_same]
  · rw [memWrite_memAt_other _ _ kbdr_ne_kbsr.symm, memWrite_memAt_same]

/-- The data word after the device's update of a byte that is not zero (rule R53). -/
theorem keyboardUpdate_data {b : Byte} (s : State) (h : b ≠ 0) :
    (keyboardUpdate b s).memAt params.kbdrAddr = zext8 b := by
  rw [keyboardUpdate, if_neg h, memWrite_memAt_same]

/-- The data word after the device's update of the zero byte, on either reading (rule R54). -/
theorem keyboardUpdate_data_zero (s : State) :
    (keyboardUpdate 0 s).memAt params.kbdrAddr =
      match params.kbdrOnZero with
      | .unchanged => s.memAt params.kbdrAddr
      | .cleared => 0 := by
  rw [keyboardUpdate, if_pos rfl]
  cases params.kbdrOnZero
  · exact memWrite_memAt_other s 0 kbdr_ne_kbsr
  · exact memWrite_memAt_same _ _ 0

/-- The device's update changes no word but its two. -/
theorem keyboardUpdate_read_other (b : Byte) (s : State) {n : Nat} (h1 : n ≠ params.kbsrAddr.toNat)
    (h2 : n ≠ params.kbdrAddr.toNat) : (keyboardUpdate b s).mem.read n = s.mem.read n := by
  have w1 : ∀ v (u : State), (memWrite params.kbsrAddr v u).mem.read n = u.mem.read n :=
    fun v u => Memory.read_write_other u.mem v h1
  have w2 : ∀ v (u : State), (memWrite params.kbdrAddr v u).mem.read n = u.mem.read n :=
    fun v u => Memory.read_write_other u.mem v h2
  unfold keyboardUpdate
  split
  · split <;> simp only [w1, w2]
  · simp only [w1, w2]

/-- `MemWrite` keeps the canonical form. -/
theorem memWrite_wf {s : State} (h : s.mem.wf) (a v : Word) : (memWrite a v s).mem.wf :=
  Memory.write_wf h a.isLt v

/-- The device's update keeps the canonical form. -/
theorem keyboardUpdate_wf {s : State} (h : s.mem.wf) (b : Byte) : (keyboardUpdate b s).mem.wf := by
  unfold keyboardUpdate
  split
  · split
    · exact memWrite_wf h _ _
    · exact memWrite_wf (memWrite_wf h _ _) _ _
  · exact memWrite_wf (memWrite_wf h _ _) _ _

/-- `OutByte` (rule R35): the byte is emitted unless the answer is a failure. -/
theorem outByte_eq (b : Byte) (s : State) :
    outByte b s = match s.nextOut.1 with
      | .ok => (none, (s.withOutAnswers s.nextOut.2).withOutput (s.output ++ [b]))
      | .fail c => (some c, s.withOutAnswers s.nextOut.2) := by
  unfold outByte
  split <;> simp_all

/-- `EchoByte` (rule R36): the byte is emitted on the echo channel unless the answer is a failure (log 22). -/
theorem echoByte_eq (b : Byte) (s : State) :
    echoByte b s = match s.nextEcho.1 with
      | .ok => (none, (s.withEchoAnswers s.nextEcho.2).withEcho (s.echo ++ [b]))
      | .fail c => (some c, s.withEchoAnswers s.nextEcho.2) := by
  unfold echoByte
  split <;> simp_all

/-- `OutByte` of several bytes: all of them are emitted, or those before the first failure; nothing changes but the
output stream. -/
theorem outBytes_spec (bs : List Byte) (s : State) :
    ∃ q n, (outBytes bs s).2 = (s.withOutAnswers q).withOutput (s.output ++ bs.take n) ∧
      ((outBytes bs s).1 = none → n = bs.length) ∧ (∀ c, (outBytes bs s).1 = some c → n < bs.length) := by
  induction bs generalizing s with
  | nil => exact ⟨s.outAnswers, 0, by simp [outBytes, State.withOutAnswers, State.withOutput], fun _ => rfl,
      fun c h => by simp [outBytes] at h⟩
  | cons b rest ih =>
    match h : s.nextOut.1 with
    | .ok =>
      obtain ⟨q, n, h2, hn, hf⟩ := ih ((s.withOutAnswers s.nextOut.2).withOutput (s.output ++ [b]))
      have e : outBytes (b :: rest) s = outBytes rest ((s.withOutAnswers s.nextOut.2).withOutput (s.output ++ [b])) := by
        simp [outBytes, outByte_eq, h]
      rw [e]
      refine ⟨q, n + 1, ?_, fun h => by simp [hn h], fun c h => by have := hf c h; simp; omega⟩
      rw [h2]
      simp [State.withOutAnswers, State.withOutput]
    | .fail c =>
      have e : outBytes (b :: rest) s = (some c, s.withOutAnswers s.nextOut.2) := by simp [outBytes, outByte_eq, h]
      rw [e]
      exact ⟨s.nextOut.2, 0, by simp [State.withOutAnswers, State.withOutput], fun h => by simp at h, fun _ _ => by simp⟩

/-- After writes to a stream: `k` where all were emitted, FAILED otherwise. -/
theorem afterWrites_cases (r : Option Cause × State) (k : State → State) :
    (r.1 = none ∧ afterWrites r k = k r.2) ∨ (∃ c, r.1 = some c ∧ afterWrites r k = raise (.ioFailure c) r.2) := by
  obtain ⟨c | c, t⟩ := r
  · exact .inl ⟨rfl, rfl⟩
  · exact .inr ⟨c, rfl, rfl⟩

/-- Writing to the output stream does not touch the input stream. -/
theorem outBytes_nextInput (bs : List Byte) (s : State) : (outBytes bs s).2.nextInput = s.nextInput := by
  obtain ⟨q, n, h, -⟩ := outBytes_spec bs s
  rw [h]
  rfl

/-- IN's handler is the sequence of rule R178: the prompt up to a failure, then the read, then the echo, then the store. -/
theorem serviceInWith_in_order (prompt : List Byte) (s : State) :
    serviceInWith prompt s =
      match outBytes prompt s with
      | (some c, t) => .next (raise (.ioFailure c) t)
      | (none, t) => (inByte t).finish echoAndStore := by
  have hin := outBytes_nextInput prompt s
  unfold serviceInWith promptThen promptThenWait
  match hp : outBytes prompt s with
  | (some c, t) => split <;> rfl
  | (none, t) =>
    rw [hp] at hin
    simp only [inByte_eq, hin]
    split
    · next a q h => simp only [h]; cases a <;> rfl
    · next q h => simp only [h, Res.finish]

/-- The generic TRAP row is the row of its vector (rule R170). -/
theorem execTrap_eq_row (v : BitVec 8) (s : State) : exec (.trap v) s = exec (trapRow v) s := by
  show execTrap v s = _
  unfold execTrap trapRow
  match serviceOf v with
  | none | some .getc | some .out | some .puts | some .inp | some .putsp | some .halt => rfl

/-- What a step of a RUNNING machine with no string in progress is. -/
theorem step_fetches {s : State} (hr : s.run = .running) (hj : s.job = none) :
    step s = (memRead s.pc s).andThen fun ir t => exec (decode ir) (advance t) := by
  simp [step, stepWith, hr, hj, fetchAndRun, fetch]

/-- What a step of a RUNNING machine with a string in progress is. -/
theorem step_string {s : State} {j : StringJob} (hr : s.run = .running) (hj : s.job = some j) :
    step s = (memRead j.cursor s).finish (stringWord j) := by
  simp [step, stepWith, hr, hj, stringStep]

end Sys2Proof.Machine
end

