-- ==== Sys2Proof/Laws/PerInstr.lean ====
section
/-! SUPPORT. The family TableRow: the canonical word of every instruction is a word of its row of the opcode table, by
the mask and the match that rules R87 and R88 give the row. -/

namespace Sys2Proof.Laws.TableRow

open Sys2Proof Sys2Proof.Machine

/-- The mask of an instruction's row (rules R87, R88). -/
def mask (i : Instr) : Word :=
  match i with
  | .addReg _ _ _ => 0xF020 | .addImm _ _ _ => 0xF020 | .andReg _ _ _ => 0xF020 | .andImm _ _ _ => 0xF020
  | .not _ _ => 0xF000 | .br _ _ _ _ => 0xF000 | .jmp _ => 0xF000 | .jsr _ => 0xF800 | .jsrr _ => 0xF800
  | .ld _ _ => 0xF000 | .ldi _ _ => 0xF000 | .ldr _ _ _ => 0xF000 | .lea _ _ => 0xF000
  | .st _ _ => 0xF000 | .sti _ _ => 0xF000 | .str _ _ _ => 0xF000 | .trap _ => 0xF000
  | .trapGetc => 0xF0FF | .trapOut => 0xF0FF | .trapPuts => 0xF0FF | .trapIn => 0xF0FF | .trapPutsp => 0xF0FF
  | .trapHalt => 0xF0FF | .trapOther _ => 0xF000 | .rti => 0xF000 | .reserved => 0xF000

/-- The match of an instruction's row (rules R87, R88). -/
def matched (i : Instr) : Word :=
  match i with
  | .addReg _ _ _ => 0x1000 | .addImm _ _ _ => 0x1020 | .andReg _ _ _ => 0x5000 | .andImm _ _ _ => 0x5020
  | .not _ _ => 0x9000 | .br _ _ _ _ => 0x0000 | .jmp _ => 0xC000 | .jsr _ => 0x4800 | .jsrr _ => 0x4000
  | .ld _ _ => 0x2000 | .ldi _ _ => 0xA000 | .ldr _ _ _ => 0x6000 | .lea _ _ => 0xE000
  | .st _ _ => 0x3000 | .sti _ _ => 0xB000 | .str _ _ _ => 0x7000 | .trap _ => 0xF000
  | .trapGetc => 0xF020 | .trapOut => 0xF021 | .trapPuts => 0xF022 | .trapIn => 0xF023 | .trapPutsp => 0xF024
  | .trapHalt => 0xF025 | .trapOther _ => 0xF000 | .rti => 0x8000 | .reserved => 0xD000

/-- The instruction's word is a word of its row. -/
def Statement (i : Instr) : Prop := encode i &&& mask i = matched i

theorem or_and (a b m : Word) : (a ||| b) &&& m = (a &&& m) ||| (b &&& m) := by
  apply BitVec.eq_of_getLsbD_eq
  intro i _
  simp [Bool.and_or_distrib_right]

theorem placeDr_and (r : Reg) : placeDr r &&& 0xF020 = 0 ∧ placeDr r &&& 0xF000 = 0 := by
  cases r <;> decide

theorem placeSr1_and (r : Reg) : placeSr1 r &&& 0xF020 = 0 ∧ placeSr1 r &&& 0xF000 = 0 ∧ placeSr1 r &&& 0xF800 = 0 := by
  cases r <;> decide

theorem placeSr2_and (r : Reg) : placeSr2 r &&& 0xF020 = 0 := by
  cases r <;> decide

theorem placeImm_and_F020 (f : BitVec 5) : placeImm f &&& 0xF020 = 0 := placeImm_and f _ (by decide)

theorem placeImm_and_F000 {n : Nat} (f : BitVec n) (h : n ≤ 12) : placeImm f &&& 0xF000 = 0 :=
  placeImm_and f _ fun i hi => by
    have : ∀ j < 12, BitVec.getLsbD (0xF000 : Word) j = false := by decide
    exact this i (by omega)

theorem placeImm_and_F800 (f : BitVec 11) : placeImm f &&& 0xF800 = 0 := placeImm_and f _ (by decide)

theorem addReg (dr sr1 sr2 : Reg) : Statement (.addReg dr sr1 sr2) := by
  simp only [Statement, encode, mask, matched, or_and, placeDr_and, placeSr1_and, placeSr2_and]; decide
theorem addImm (dr sr1 : Reg) (imm5 : BitVec 5) : Statement (.addImm dr sr1 imm5) := by
  simp only [Statement, encode, mask, matched, or_and, placeDr_and, placeSr1_and, placeImm_and_F020]; decide
theorem andReg (dr sr1 sr2 : Reg) : Statement (.andReg dr sr1 sr2) := by
  simp only [Statement, encode, mask, matched, or_and, placeDr_and, placeSr1_and, placeSr2_and]; decide
theorem andImm (dr sr1 : Reg) (imm5 : BitVec 5) : Statement (.andImm dr sr1 imm5) := by
  simp only [Statement, encode, mask, matched, or_and, placeDr_and, placeSr1_and, placeImm_and_F020]; decide
theorem not (dr sr : Reg) : Statement (.not dr sr) := by
  simp only [Statement, encode, mask, matched, or_and, placeDr_and, placeSr1_and]; decide
theorem br (n z p : Bool) (off : BitVec 9) : Statement (.br n z p off) := by
  simp only [Statement, encode, mask, matched, or_and, placeImm_and_F000 off (by decide)]
  cases n <;> cases z <;> cases p <;> decide
theorem jmp (base : Reg) : Statement (.jmp base) := by
  simp only [Statement, encode, mask, matched, or_and, placeSr1_and]; decide
theorem jsr (off : BitVec 11) : Statement (.jsr off) := by
  simp only [Statement, encode, mask, matched, or_and, placeImm_and_F800]; decide
theorem jsrr (base : Reg) : Statement (.jsrr base) := by
  simp only [Statement, encode, mask, matched, or_and, placeSr1_and]; decide
theorem ld (dr : Reg) (off : BitVec 9) : Statement (.ld dr off) := by
  simp only [Statement, encode, mask, matched, or_and, placeDr_and, placeImm_and_F000 off (by decide)]; decide
theorem ldi (dr : Reg) (off : BitVec 9) : Statement (.ldi dr off) := by
  simp only [Statement, encode, mask, matched, or_and, placeDr_and, placeImm_and_F000 off (by decide)]; decide
theorem ldr (dr base : Reg) (off : BitVec 6) : Statement (.ldr dr base off) := by
  simp only [Statement, encode, mask, matched, or_and, placeDr_and, placeSr1_and, placeImm_and_F000 off (by decide)]; decide
theorem lea (dr : Reg) (off : BitVec 9) : Statement (.lea dr off) := by
  simp only [Statement, encode, mask, matched, or_and, placeDr_and, placeImm_and_F000 off (by decide)]; decide
theorem st (sr : Reg) (off : BitVec 9) : Statement (.st sr off) := by
  simp only [Statement, encode, mask, matched, or_and, placeDr_and, placeImm_and_F000 off (by decide)]; decide
theorem sti (sr : Reg) (off : BitVec 9) : Statement (.sti sr off) := by
  simp only [Statement, encode, mask, matched, or_and, placeDr_and, placeImm_and_F000 off (by decide)]; decide
theorem str (sr base : Reg) (off : BitVec 6) : Statement (.str sr base off) := by
  simp only [Statement, encode, mask, matched, or_and, placeDr_and, placeSr1_and, placeImm_and_F000 off (by decide)]; decide
theorem trap (vect : BitVec 8) : Statement (.trap vect) := by
  simp only [Statement, encode, mask, matched, or_and, placeImm_and_F000 vect (by decide)]; decide
theorem trapGetc : Statement .trapGetc := by unfold Statement; decide
theorem trapOut : Statement .trapOut := by unfold Statement; decide
theorem trapPuts : Statement .trapPuts := by unfold Statement; decide
theorem trapIn : Statement .trapIn := by unfold Statement; decide
theorem trapPutsp : Statement .trapPutsp := by unfold Statement; decide
theorem trapHalt : Statement .trapHalt := by unfold Statement; decide
theorem trapOther (vect : BitVec 8) : Statement (.trapOther vect) := by
  simp only [Statement, encode, mask, matched, or_and, placeImm_and_F000 vect (by decide)]; decide
theorem rti : Statement .rti := by unfold Statement; decide
theorem reserved : Statement .reserved := by unfold Statement; decide

end Sys2Proof.Laws.TableRow
end

