-- ==== Sys2Proof/Tests/Slice0.lean ====
section
/-! SUPPORT. The model's own tests: expected values from spec/95_test_vectors.md (the row is named beside each) or by
hand from the rule; and for every statement with hypotheses a concrete state and operands that meet them. -/

namespace Sys2Proof.Tests

open Sys2Proof Sys2Proof.Machine Sys2Proof.Safety

/-- The reset state with one word at the PC, output and echo always Ok, and the input bytes given, then Fail. -/
def start (w : Word) (bytes : List Byte) : State :=
  (((placeAtPc w State.reset).withInput
    { listed := bytes.map fun b => some (.byte b), later := .always (some (.fail 1)), drawn := 0 }).withOutAnswers
    { listed := [], later := .always .ok, drawn := 0 }).withEchoAnswers { listed := [], later := .always .ok, drawn := 0 }

/-- The state with a word of memory replaced. -/
def poke (a v : Word) (s : State) : State := memWrite a v s

/-- What the next step leaves, in the terms asked for. -/
def after {α : Type} (s : State) (f : State → α) : Option α :=
  match step s with
  | .next t => some (f t)
  | _ => none

/-- A state whose next input request is never answered. -/
def silent (s : State) : State := s.withInput { listed := [none], later := .free, drawn := 0 }

/-- A state whose output stream fails at its next write. -/
def outFails (s : State) : State := s.withOutAnswers { listed := [.fail 2], later := .always .ok, drawn := 0 }

/-- A state whose echo channel fails at its next write. -/
def echoFails (s : State) : State := s.withEchoAnswers { listed := [.fail 3], later := .always .ok, drawn := 0 }

/-- A state with a string handler at an address. -/
def walking (kind : StringKind) (a : Word) (s : State) : State := s.withJob (some { kind := kind, cursor := a })

/-! WellFormed refuses an ill-formed term for its one check, and takes the vectors on both sides of the six. -/

theorem test_wellFormed_refuses_a_defined_vector : (Instr.trapOther 0x25).wellFormed = false := by decide
theorem test_wellFormed_refuses_the_first_vector : (Instr.trapOther 0x20).wellFormed = false := by decide
theorem test_wellFormed_takes_the_edges :
    (Instr.trapOther 0x1F).wellFormed = true ∧ (Instr.trapOther 0x26).wellFormed = true := by decide

/-! Decoding, every constructor by a word written out bit by bit from rule R87 (the rows of V-DEC and V-OP). -/

theorem test_decode_add_register : decode 0b0001_001_000_0_00_000 = .addReg .r1 .r0 .r0 := by decide
theorem test_decode_add_register_unused_bits : decode 0b0001_001_010_0_11_011 = .addReg .r1 .r2 .r3 := by decide
theorem test_decode_add_immediate : decode 0b0001_001_001_1_11111 = .addImm .r1 .r1 0x1F := by decide
theorem test_decode_and_register : decode 0b0101_001_010_0_00_011 = .andReg .r1 .r2 .r3 := by decide
theorem test_decode_and_immediate : decode 0b0101_001_010_1_10000 = .andImm .r1 .r2 0x10 := by decide
theorem test_decode_not : decode 0b1001_100_011_111111 = .not .r4 .r3 := by decide
theorem test_decode_br : decode 0b0000_0_1_1_111111110 = .br false true true 0x1FE := by decide
theorem test_decode_br_n_only : decode 0b0000_1_0_0_000000101 = .br true false false 5 := by decide
theorem test_decode_jmp : decode 0b1100_111_010_111111 = .jmp .r2 := by decide
theorem test_decode_jsr : decode 0b0100_1_10000000000 = .jsr 0x400 := by decide
theorem test_decode_jsrr : decode 0b0100_0_00_111_000000 = .jsrr .r7 := by decide
theorem test_decode_ld : decode 0b0010_001_000000111 = .ld .r1 7 := by decide
theorem test_decode_ldi : decode 0b1010_001_000000100 = .ldi .r1 4 := by decide
theorem test_decode_ldr : decode 0b0110_010_110_000001 = .ldr .r2 .r6 1 := by decide
theorem test_decode_lea : decode 0b1110_110_000001100 = .lea .r6 12 := by decide
theorem test_decode_st : decode 0b0011_000_000000011 = .st .r0 3 := by decide
theorem test_decode_sti : decode 0b1011_011_000000001 = .sti .r3 1 := by decide
theorem test_decode_str : decode 0b0111_001_110_000001 = .str .r1 .r6 1 := by decide
theorem test_decode_getc : decode 0b1111_0000_00100000 = .trapGetc := by decide
theorem test_decode_out : decode 0b1111_0000_00100001 = .trapOut := by decide
theorem test_decode_puts : decode 0b1111_0000_00100010 = .trapPuts := by decide
theorem test_decode_in : decode 0b1111_0000_00100011 = .trapIn := by decide
theorem test_decode_putsp : decode 0b1111_0000_00100100 = .trapPutsp := by decide
theorem test_decode_halt_unused_bits : decode 0b1111_1111_00100101 = .trapHalt := by decide
theorem test_decode_unrecognised : decode 0b1111_0000_10011001 = .trapOther 0x99 := by decide
theorem test_decode_rti : decode 0b1000_111111111111 = .rti := by decide
theorem test_decode_reserved : decode 0b1101_000100100011 = .reserved := by decide
theorem test_encode_generic_trap : encode (.trap 0x25) = 0xF025 ∧ decode (encode (.trap 0x25)) = .trapHalt := by decide
theorem test_encode_not_canonical : encode (.not .r4 .r3) = 0x98FF := by decide
theorem test_decodeTableWord : decodeTableWord 16 0xC1C0 = some (.jmp .r7) ∧ decodeTableWord 32 0 = none := by decide

/-! One step, per instruction. -/

/-- OP2: the sum wraps. -/
theorem test_add_register_wraps :
    after (((start 0x1042 []).setReg .r1 0xFFFF).setReg .r2 0x0001) (fun t => (t.reg .r0, t.cond, t.pc)) =
      some (0x0000, 0x0002, 0x3001) := by decide
/-- OP4: one register in all three fields. -/
theorem test_add_register_same :
    after ((start 0x1241 []).setReg .r1 0x4001) (fun t => (t.reg .r1, t.cond)) = some (0x8002, 0x0004) := by decide
/-- OP5: the smallest immediate. -/
theorem test_add_immediate_smallest :
    after ((start 0x1030 []).setReg .r0 0x0010) (fun t => (t.reg .r0, t.cond)) = some (0x0000, 0x0002) := by decide
/-- OP7: the low bits of imm5 are no register. -/
theorem test_add_immediate_is_no_register :
    after (((start 0x1467 []).setReg .r1 0x0100).setReg .r7 0x5555) (fun t => (t.reg .r2, t.cond, t.reg .r7)) =
      some (0x0107, 0x0001, 0x5555) := by decide
/-- OP9. -/
theorem test_and_register :
    after (((start 0x5283 []).setReg .r2 0xFF0F).setReg .r3 0x0FF0) (fun t => (t.reg .r1, t.cond)) =
      some (0x0F00, 0x0001) := by decide
/-- OP12: AND's immediate is sign-extended too. -/
theorem test_and_immediate_sign_extends :
    after ((start 0x52B0 []).setReg .r2 0xFFFF) (fun t => (t.reg .r1, t.cond)) = some (0xFFF0, 0x0004) := by decide
/-- OP17, OP18: bits 5 to 0 play no part. -/
theorem test_not :
    after ((start 0x92BF []).setReg .r2 0x8000) (fun t => (t.reg .r1, t.cond)) = some (0x7FFF, 0x0001) ∧
      after ((start 0x98C0 []).setReg .r3 0x00FF) (fun t => (t.reg .r4, t.cond)) = some (0xFF00, 0x0004) := by decide
/-- V-BR, mask 110 at COND = ZERO and POS. -/
theorem test_br_mask :
    after (start 0x0C05 []) (fun t => t.pc) = some 0x3006 ∧
      after ((start 0x0C05 []).withCond 0x0001) (fun t => t.pc) = some 0x3001 := by decide
/-- BR7: the increment wraps, then +1. -/
theorem test_br_wraps :
    after (placeAtPc 0x0E01 ((start 0 []).withPc 0xFFFF)) (fun t => t.pc) = some 0x0001 := by decide
/-- JMP3: bits 11:9 and 5:0 ignored; no register changes. -/
theorem test_jmp : after ((start 0xCEBF []).setReg .r2 0x4000) (fun t => (t.pc, t.reg .r7)) = some (0x4000, 0x0000) := by
  decide
/-- JSR2: the farthest backward; COND is not touched. -/
theorem test_jsr_backward :
    after (start 0x4C00 []) (fun t => (t.reg .r7, t.pc, t.cond)) = some (0x3001, 0x2C01, 0x0002) := by decide
/-- JSR6: the link is written before the base register is read. -/
theorem test_jsrr_r7 : after ((start 0x41C0 []).setReg .r7 0x5000) (fun t => (t.reg .r7, t.pc)) = some (0x3001, 0x3001) := by
  decide
/-- JSR5. -/
theorem test_jsrr : after ((start 0x40C0 []).setReg .r3 0x5000) (fun t => (t.reg .r7, t.pc)) = some (0x3001, 0x5000) := by
  decide
/-- LD2: offset -1 is the instruction's own word. -/
theorem test_ld_own_word : after (start 0x23FF []) (fun t => (t.reg .r1, t.cond)) = some (0x23FF, 0x0001) := by decide
/-- LD4. -/
theorem test_ldi :
    after (poke 0x4000 0xFFFE (poke 0x3002 0x4000 (start 0xA401 []))) (fun t => (t.reg .r2, t.cond)) =
      some (0xFFFE, 0x0004) := by decide
/-- KB1: a read of the status word through LDI latches a byte. -/
theorem test_ldi_keyboard :
    after (poke 0xFE02 0x1111 (poke 0x3002 0xFE00 (start 0xA001 [0x61])))
        (fun t => (t.reg .r0, t.cond, t.memAt 0xFE00, t.memAt 0xFE02)) = some (0x8000, 0x0004, 0x8000, 0x0061) := by decide
/-- KB3: a failing status read changes nothing. -/
theorem test_ldr_keyboard_fails :
    after (poke 0xFE00 0x1234 (((start 0x6080 []).setReg .r2 0xFE00).setReg .r0 0x7777))
        (fun t => (t.run, t.reg .r0, t.memAt 0xFE00, t.pc)) =
      some (.failed (.ioFailure 1), 0x7777, 0x1234, 0x3001) := by decide
/-- LD8: the sum wraps downward. -/
theorem test_ldr_wraps :
    after (poke 0xFFFF 0x9000 (start 0x607F [])) (fun t => (t.reg .r0, t.cond)) = some (0x9000, 0x0004) := by decide
/-- LD12: LEA at the top of memory sets the ZERO tag. -/
theorem test_lea_sets_flags :
    after (placeAtPc 0xE000 (((start 0 []).withPc 0xFFFF).withCond 0x0004)) (fun t => (t.reg .r0, t.cond)) =
      some (0x0000, 0x0002) := by decide
/-- ST2: a store over the instruction itself. -/
theorem test_st_own_word :
    after ((start 0x31FF []).setReg .r0 0xF025) (fun t => (t.memAt 0x3000, t.cond, t.pc)) =
      some (0xF025, 0x0002, 0x3001) := by decide
/-- KB6: a write to the status word is a plain store and takes no input. -/
theorem test_sti_status_word :
    after ((poke 0x3002 0xFE00 (start 0xB601 [0x71])).setReg .r3 0x1234) (fun t => (t.memAt 0xFE00, t.input.drawn)) =
      some (0x1234, 0) := by decide
/-- ST5: the same register as source and base. -/
theorem test_str_same :
    after ((start 0x7240 []).setReg .r1 0x4000) (fun t => (t.memAt 0x4000, t.reg .r1)) = some (0x4000, 0x4000) := by decide
/-- ST4. -/
theorem test_str_backward :
    after (((start 0x75BF []).setReg .r2 0xBEEF).setReg .r6 0x4000) (fun t => t.memAt 0x3FFF) = some 0xBEEF := by decide
/-- T1, T3: GETC zero-extends, and emits nothing. -/
theorem test_getc :
    after (start 0xF020 [0xFF]) (fun t => (t.reg .r0, t.cond, t.reg .r7, t.output, t.echo)) =
      some (0x00FF, 0x0001, 0x3001, [], []) := by decide
/-- T4: GETC on a failing stream. -/
theorem test_getc_fails :
    after ((start 0xF020 []).setReg .r0 0x0055) (fun t => (t.run, t.reg .r0, t.reg .r7)) =
      some (.failed (.ioFailure 1), 0x0055, 0x3001) := by decide
/-- T5: OUT ignores the high byte. -/
theorem test_out : after ((start 0xF021 []).setReg .r0 0x1241) (fun t => (t.output, t.reg .r0)) = some ([0x41], 0x1241) := by
  decide
/-- PUTS's entry: the cursor is R0 and R7 is the incremented PC. -/
theorem test_puts_entry :
    after ((start 0xF022 []).setReg .r0 0x4000) (fun t => (t.job, t.reg .r7, t.reg .r0, t.pc)) =
      some (some { kind := .puts, cursor := 0x4000 }, 0x3001, 0x4000, 0x3001) := by decide
/-- T9: a word whose low byte is zero does not end the string. -/
theorem test_puts_word :
    after (walking .puts 0xFFFF (poke 0xFFFF 0x4100 (start 0 []))) (fun t => (t.output, t.job)) =
      some ([0x00], some { kind := .puts, cursor := 0x0000 }) := by decide
/-- T13, T14 with a prompt of two bytes: the echo is not on the output; a failing read leaves the prompt there. -/
theorem test_in :
    (match serviceInWith [0x45, 0x6E] (start 0 [0x78]) with
      | .next t => (t.output, t.echo, t.reg .r0, t.cond)
      | _ => ([], [], 0, 0)) = ([0x45, 0x6E], [0x78], 0x0078, 0x0001) := by decide
theorem test_in_fails :
    (match serviceInWith [0x45, 0x6E] (start 0 []) with
      | .next t => (t.output, t.echo, t.run)
      | _ => ([], [], .running)) = ([0x45, 0x6E], [], .failed (.ioFailure 1)) := by decide
/-- T16: a zero low byte of a non-zero word is written, then the high byte. -/
theorem test_putsp_word :
    after (walking .putsp 0x4000 (poke 0x4000 0x6900 (start 0 []))) (fun t => t.output) = some [0x00, 0x69] := by decide
/-- T15: a zero high byte is skipped. -/
theorem test_putsp_skips :
    after (walking .putsp 0x4001 (poke 0x4001 0x0021 (start 0 []))) (fun t => (t.output, t.job)) =
      some ([0x21], some { kind := .putsp, cursor := 0x4002 }) := by decide
/-- T17. -/
theorem test_halt :
    after ((start 0xF025 []).setReg .r0 0x0005) (fun t => (t.run, t.reg .r7, t.pc, t.reg .r0, t.output)) =
      some (.halted, 0x3001, 0x3001, 0x0005, []) := by decide
/-- T19. -/
theorem test_unrecognized_trap :
    after (((start 0xF099 []).setReg .r0 1).withCond 0x0004) (fun t => (t.run, t.reg .r7, t.reg .r0, t.cond, t.pc)) =
      some (.failed (.unrecognizedTrap 0x99), 0x3001, 1, 0x0004, 0x3001) := by decide
/-- The generic row behaves as the row of its vector. -/
theorem test_trap_generic : exec (.trap 0x25) State.reset = .next (halt (trapEntry State.reset)) := rfl
/-- UN2, UN4. -/
theorem test_unimplemented :
    after (start 0x8FFF []) (fun t => (t.run, t.pc, t.reg .r7)) = some (.failed (.unhandledOpcode 8), 0x3001, 0) ∧
      after (start 0xD123 []) (fun t => (t.run, t.pc)) = some (.failed (.unhandledOpcode 13), 0x3001) := by decide
/-- KB8, KB9: the fetch at the status word. -/
theorem test_fetch_keyboard :
    after ((start 0 []).withPc 0xFE00) (fun t => (t.run, t.pc)) = some (.failed (.ioFailure 1), 0xFE00) ∧
      after ((start 0 [0x61]).withPc 0xFE00) (fun t => (t.run, t.pc, t.memAt 0xFE02)) =
        some (.failed (.unhandledOpcode 8), 0xFE01, 0x0061) := by decide
/-- The table of S1, by its corner values. -/
theorem test_sext :
    sext (0x10 : BitVec 5) = 0xFFF0 ∧ sext (0x0F : BitVec 5) = 0x000F ∧ sext (0x20 : BitVec 6) = 0xFFE0 ∧
      sext (0x100 : BitVec 9) = 0xFF00 ∧ sext (0x400 : BitVec 11) = 0xFC00 ∧ sext (0x3FF : BitVec 11) = 0x03FF := by decide
/-- A store of the zero word takes the entry out: equal memories are equal data. -/
theorem test_memory_canonical : poke 0x4000 0 (poke 0x4000 7 State.reset) = State.reset := by decide

/-! For every statement with hypotheses, a state and operands that meet them; one for each clause, where clauses have
hypotheses of their own. A clause's conclusion is the statement's business; here only its hypotheses are met. -/

theorem witness_DecodeOfEncodeIsTheInstruction :
    (Instr.trapOther 0x26).wellFormed = true ∧ (∀ v, Instr.trapOther 0x26 ≠ .trap v) ∧
      (Instr.trap 0xFF).wellFormed = true ∧ Instr.trap 0xFF = .trap 0xFF :=
  ⟨by decide, (fun _ h => by cases h), rfl, rfl⟩

theorem witness_SignExtensionKeepsTheSignedValue :
    5 ∈ [5, 6, 9, 11] ∧ 11 ∈ [5, 6, 9, 11] ∧ (0x10 : BitVec 5).getLsbD (5 - 1) = true ∧
      (0x3FF : BitVec 11).getLsbD (11 - 1) = false := by decide

theorem witness_ResetMeetsTheInvariant : Memory.wf [(0, 1), (0x3000, 0xF025), (65535, 0xFFFF)] := by decide

theorem witness_EveryStepKeepsTheInvariant :
    Inv (start 0x3003 []) ∧ ∃ t, step (start 0x3003 []) = .next t := ⟨by decide, _, rfl⟩

theorem witness_AStoreIsSeenByTheNextFetch :
    State.reset.run = .running ∧ State.reset.job = none ∧ State.reset.pc ≠ params.kbsrAddr := by decide

theorem witness_MemReadReadsAWordOrTheKeyboard :
    (0xFE01 : Word) ≠ params.kbsrAddr ∧ (0xFE00 : Word) = params.kbsrAddr ∧
      (start 0 [0x61]).nextInput.1 = some (.byte 0x61) ∧ (start 0 []).nextInput.1 = some (.fail 1) ∧
      (silent State.reset).nextInput.1 = none := by decide

theorem witness_SetccFollowsTheRegister :
    State.reset.reg .r0 = 0x0000 ∧
      ((State.reset.setReg .r0 0x8000).reg .r0 ≠ 0x0000 ∧ ((State.reset.setReg .r0 0x8000).reg .r0).getLsbD 15 = true) ∧
      ((State.reset.setReg .r7 0x7FFF).reg .r7 ≠ 0x0000 ∧ ((State.reset.setReg .r7 0x7FFF).reg .r7).getLsbD 15 = false) := by
  decide

theorem witness_WritesStopAtTheFirstFailure :
    (∀ k < [0x41, 0x42].length, outAnswerAt (start 0 []) k = .ok) ∧
      (1 < ([0x41, 0x42] : List Byte).length ∧
        (∀ m < 1, outAnswerAt (State.reset.withOutAnswers { listed := [.ok, .fail 2], later := .free, drawn := 0 }) m = .ok) ∧
        outAnswerAt (State.reset.withOutAnswers { listed := [.ok, .fail 2], later := .free, drawn := 0 }) 1 = .fail 2) := by
  decide

theorem witness_AStepRunsTheDecodedInstruction :
    (State.reset.withPc 0xFE01).run = .running ∧ (State.reset.withPc 0xFE01).job = none ∧
      (State.reset.withPc 0xFE01).pc ≠ params.kbsrAddr := by decide

theorem witness_TheFetchReadsTheKeyboardToo :
    (∀ bytes ∈ [[0x61], [0x00], []], ((start 0 bytes).withPc 0xFE00).run = .running ∧
      ((start 0 bytes).withPc 0xFE00).job = none ∧ ((start 0 bytes).withPc 0xFE00).pc = params.kbsrAddr) ∧
    (0x61 : Byte) ≠ 0 ∧ ((start 0 [0x61]).withPc 0xFE00).nextInput.1 = some (.byte 0x61) ∧
    ((start 0 [0x00]).withPc 0xFE00).nextInput.1 = some (.byte 0) ∧
    ((start 0 []).withPc 0xFE00).nextInput.1 = some (.fail 1) ∧
    (silent ((start 0 []).withPc 0xFE00)).nextInput.1 = none := by decide

theorem witness_NoStepLeavesATerminalState :
    (halt State.reset).run ≠ .running ∧ (raise (.unhandledOpcode 8) State.reset).run ≠ .running := by decide

theorem witness_AnAnsweredStepCompletes : State.reset.run = .running ∧ State.reset.nextInput.1 ≠ none :=
  ⟨rfl, fun h => by cases h⟩

theorem witness_AStepTakesAtMostOneInputAnswer : ∃ t, step (start 0xF020 [0x41]) = .next t := ⟨_, rfl⟩

theorem witness_EveryInstructionLeavesThePcItShould :
    ((start 0x0E01 []).run = .running ∧ (start 0x0E01 []).job = none ∧ (∃ t, step (start 0x0E01 []) = .next t) ∧
      (start 0x0E01 []).pc ≠ params.kbsrAddr) ∧
    (∃ t, step ((start 0 [0x61]).withPc 0xFE00) = .next t) ∧ ((start 0 [0x61]).withPc 0xFE00).pc = params.kbsrAddr ∧
    ((start 0 [0x61]).withPc 0xFE00).nextInput.1 = some (.byte 0x61) ∧
    (∃ t, step ((start 0 []).withPc 0xFE00) = .next t) ∧ ((start 0 []).withPc 0xFE00).nextInput.1 = some (.fail 1) :=
  ⟨⟨rfl, rfl, ⟨_, rfl⟩, by decide⟩, ⟨_, rfl⟩, rfl, rfl, ⟨_, rfl⟩, rfl⟩

theorem witness_OnlyTheListedRegistersAreWritten : ∃ t, exec .trapHalt State.reset = .next t := ⟨_, rfl⟩

theorem witness_OnlyDataInstructionsWriteCond :
    State.reset.run = .running ∧ (∃ t, exec .trapHalt State.reset = .next t) ∧ flagSource .trapHalt = none ∧
      (∃ t, exec .trapGetc (start 0 []) = .next t ∧ t.run ≠ .running) ∧
      (∃ t, exec .trapGetc (start 0 [0x41]) = .next t ∧ flagSource .trapGetc = some .r0 ∧ t.run = .running) :=
  ⟨rfl, ⟨_, rfl⟩, rfl, ⟨_, rfl, by decide⟩, ⟨_, rfl, rfl, rfl⟩⟩

theorem witness_OnlyBranchesReadCond : isBranch (.jmp .r7) = false ∧ ∃ t, exec (.jmp .r7) State.reset = .next t :=
  ⟨rfl, _, rfl⟩

theorem witness_OnlyStoresAndTheKeyboardChangeMemory :
    isStore (.ldr .r0 .r0 0) = false ∧ (∃ t, exec (.ldr .r0 .r0 0) State.reset = .next t ∧ t.input = State.reset.input) :=
  ⟨rfl, _, rfl, rfl⟩

theorem witness_OnlyTheHaltTrapHalts :
    (start 0xF025 []).run = .running ∧ (start 0xF025 []).job = none ∧ (start 0xF025 []).pc ≠ params.kbsrAddr ∧
      decode ((start 0xF025 []).memAt (start 0xF025 []).pc) = .trapHalt ∧
      ∃ t, step (start 0xF025 []) = .next t ∧ t.run = .halted :=
  ⟨rfl, rfl, by decide, by decide, _, rfl, rfl⟩

theorem witness_FatalErrorsHaveTheirCauses :
    (∃ t, step (start 0xD000 []) = .next t ∧ t.run = .failed (.unhandledOpcode 13)) ∧
      (∃ t, step (start 0xF026 []) = .next t ∧ t.run = .failed (.unrecognizedTrap 0x26)) ∧
      (∃ t, step ((start 0 []).withPc 0xFE00) = .next t ∧ t.run = .failed (.ioFailure 1)) ∧
      (∃ t, step (start 0xF020 []) = .next t ∧ t.run = .failed (.ioFailure 1)) ∧
      (∃ t, step (walking .puts 0xFE00 (start 0 [])) = .next t ∧ t.run = .failed (.ioFailure 1)) :=
  ⟨⟨_, rfl, rfl⟩, ⟨_, rfl, rfl⟩, ⟨_, rfl, rfl⟩, ⟨_, rfl, rfl⟩, ⟨_, rfl, rfl⟩⟩

theorem witness_EmittedBytesAreNeverReadBack : ∃ t, step (start 0xF021 []) = .next t := ⟨_, rfl⟩

/-! The decoding clauses: for each statement a word that meets the hypotheses of each, with the other bits set where that
could matter. The state clauses of LD, LDR, LDI and STI follow below; the other statements have none or stand below. -/

theorem witness_AddFollowsItsRule :
    (opAt 0x1FDF = params.opcode .add ∧ (0x1FDF : Word).getLsbD params.posMode = false) ∧
      (opAt 0x1FFF = params.opcode .add ∧ (0x1FFF : Word).getLsbD params.posMode = true) := by decide

theorem witness_AndFollowsItsRule :
    (opAt 0x5FDF = params.opcode .and ∧ (0x5FDF : Word).getLsbD params.posMode = false) ∧
      (opAt 0x5FFF = params.opcode .and ∧ (0x5FFF : Word).getLsbD params.posMode = true) := by decide

theorem witness_JsrFollowsItsRule :
    (opAt 0x4FFF = params.opcode .jsr ∧ (0x4FFF : Word).getLsbD params.posJsrMode = true) := by decide

theorem witness_JsrrFollowsItsRule :
    (opAt 0x47FF = params.opcode .jsr ∧ (0x47FF : Word).getLsbD params.posJsrMode = false) := by decide

theorem witness_NotFollowsItsRule :
    opAt 0x9FC0 = params.opcode .not := by decide

theorem witness_BranchFollowsItsRule_decoding :
    opAt 0x0FFF = params.opcode .br := by decide

theorem witness_JumpFollowsItsRule :
    opAt 0xCFFF = params.opcode .jmp := by decide

theorem witness_LdFollowsItsRule_decoding :
    opAt 0x2FFF = params.opcode .ld := by decide

theorem witness_LdiFollowsItsRule_decoding :
    opAt 0xAFFF = params.opcode .ldi := by decide

theorem witness_LdrFollowsItsRule_decoding :
    opAt 0x6FFF = params.opcode .ldr := by decide

theorem witness_LeaFollowsItsRule :
    opAt 0xEFFF = params.opcode .lea := by decide

theorem witness_StFollowsItsRule :
    opAt 0x3FFF = params.opcode .st := by decide

theorem witness_StiFollowsItsRule_decoding :
    opAt 0xBFFF = params.opcode .sti := by decide

theorem witness_StrFollowsItsRule :
    opAt 0x7FFF = params.opcode .str := by decide

theorem witness_RtiFollowsItsRule :
    opAt 0x8FFF = params.opcode .rti := by decide

theorem witness_ReservedOpcodeFollowsItsRule :
    opAt 0xDFFF = params.opcode .reserved := by decide

theorem witness_GetcFollowsItsRule_decoding :
    opAt 0xFF20 = params.opcode .trap ∧ (0xFF20 : Word).extractLsb' 0 8 = params.vector .getc := by decide

theorem witness_OutFollowsItsRule_decoding :
    opAt 0xFF21 = params.opcode .trap ∧ (0xFF21 : Word).extractLsb' 0 8 = params.vector .out := by decide

theorem witness_PutsFollowsItsRule_decoding :
    opAt 0xF022 = params.opcode .trap ∧ (0xF022 : Word).extractLsb' 0 8 = params.vector .puts := by decide

theorem witness_InFollowsItsRule_decoding :
    opAt 0xF023 = params.opcode .trap ∧ (0xF023 : Word).extractLsb' 0 8 = params.vector .inp := by decide

theorem witness_PutspFollowsItsRule_decoding :
    opAt 0xF024 = params.opcode .trap ∧ (0xF024 : Word).extractLsb' 0 8 = params.vector .putsp := by decide

theorem witness_HaltFollowsItsRule :
    opAt 0xFF25 = params.opcode .trap ∧ (0xFF25 : Word).extractLsb' 0 8 = params.vector .halt := by decide

/-- The vectors on both sides of the six. -/
theorem witness_UnrecognizedTrapFollowsItsRule :
    (opAt 0xF01F = params.opcode .trap ∧ ∀ t ∈ services, (0xF01F : Word).extractLsb' 0 8 ≠ params.vector t) ∧
      (opAt 0xF026 = params.opcode .trap ∧ ∀ t ∈ services, (0xF026 : Word).extractLsb' 0 8 ≠ params.vector t) ∧
      [TrapService.getc, .out, .puts, .inp, .putsp, .halt] = services := by decide

theorem witness_BranchFollowsItsRule : CondLegal State.reset.cond ∧ CondLegal 0x0001 ∧ CondLegal 0x0004 := by decide

/-- LD, LDR: a plain address and the keyboard-status one, with each answer. LD at pc 0xFDFF reaches it with offset +1. -/
theorem witness_LdFollowsItsRule_and_LdrFollowsItsRule :
    BitVec.ofInt 16 (((start 0 []).withPc 0xFDFF).pc.toNat + (2 : BitVec 9).toInt) ≠ params.kbsrAddr ∧
      BitVec.ofInt 16 (((start 0 []).withPc 0xFDFF).pc.toNat + (1 : BitVec 9).toInt) = params.kbsrAddr ∧
      BitVec.ofInt 16 ((((start 0 []).setReg .r2 0xFE20).reg .r2).toNat + (0x1F : BitVec 6).toInt) ≠ params.kbsrAddr ∧
      BitVec.ofInt 16 ((((start 0 []).setReg .r2 0xFE20).reg .r2).toNat + (0x20 : BitVec 6).toInt) = params.kbsrAddr ∧
      ((start 0 [0x00]).withPc 0xFDFF).nextInput.1 = some (.byte 0x00) ∧
      ((start 0 []).withPc 0xFDFF).nextInput.1 = some (.fail 1) ∧
      (silent ((start 0 []).withPc 0xFDFF)).nextInput.1 = none := by decide

/-- LDI, STI: a pointer at a plain address to a plain word, a pointer to the keyboard-status word, and a pointer read at
the keyboard-status address. -/
theorem witness_LdiFollowsItsRule_and_StiFollowsItsRule :
    (pcRelative (2 : BitVec 9) ((start 0 []).withPc 0xFDFF) ≠ params.kbsrAddr ∧
      ((start 0 []).withPc 0xFDFF).memAt (pcRelative (2 : BitVec 9) ((start 0 []).withPc 0xFDFF)) ≠ params.kbsrAddr) ∧
    ((poke 0x3001 0xFE00 (start 0 [0x61])).memAt (pcRelative (1 : BitVec 9) (start 0 [0x61])) = params.kbsrAddr ∧
      (poke 0x3001 0xFE00 (start 0 [0x61])).nextInput.1 = some (.byte 0x61)) ∧
    (pcRelative (1 : BitVec 9) ((start 0 [0x00]).withPc 0xFDFF) = params.kbsrAddr ∧
      ((start 0 [0x00]).withPc 0xFDFF).nextInput.1 = some (.byte 0x00)) ∧
    ((start 0 []).withPc 0xFDFF).nextInput.1 = some (.fail 1) ∧
    (silent ((start 0 []).withPc 0xFDFF)).nextInput.1 = none := by decide

theorem witness_TrapDispatchesOnItsVector :
    opAt 0xFFFF = 0b1111 ∧ State.reset.nextInput.1 ≠ none ∧ ∃ t, exec (.trap 0x26) State.reset = .next t :=
  ⟨rfl, (fun h => by cases h), _, rfl⟩

theorem witness_GetcFollowsItsRule :
    (start 0 [0x00]).nextInput.1 = some (.byte 0x00) ∧ (start 0 [0xFF]).nextInput.1 = some (.byte 0xFF) ∧
      (start 0 []).nextInput.1 = some (.fail 1) ∧ (silent State.reset).nextInput.1 = none := by decide

theorem witness_OutFollowsItsRule :
    (start 0 []).nextOut.1 = .ok ∧ (outFails State.reset).nextOut.1 = .fail 2 := by decide

theorem witness_PutsFollowsItsRule :
    (walking .puts 0xFE01 (start 0 [])).run = .running ∧
      (walking .puts 0xFE01 (start 0 [])).job = some { kind := .puts, cursor := 0xFE01 } ∧
      (0xFE01 : Word) ≠ params.kbsrAddr ∧ (walking .puts 0xFE01 (start 0 [])).memAt 0xFE01 = 0 ∧
      (walking .puts 0xFE01 (poke 0xFE01 0x4100 (start 0 []))).memAt 0xFE01 ≠ 0 ∧
      (walking .puts 0xFE01 (poke 0xFE01 0x4100 (start 0 []))).nextOut.1 = .ok ∧
      (outFails (walking .puts 0xFE01 (poke 0xFE01 0x4100 (start 0 [])))).nextOut.1 = .fail 2 := by decide

/-- IN: the prompt is an open value, so its writes' answers are Ok whatever its length. -/
theorem witness_InFollowsItsRule :
    (∀ k < params.inPrompt.length, outAnswerAt (start 0 [0x78]) k = .ok) ∧
      (start 0 [0x78]).nextInput.1 = some (.byte 0x78) ∧ (start 0 [0x78]).nextEcho.1 = .ok ∧
      ((∀ k < params.inPrompt.length, outAnswerAt (echoFails (start 0 [0x78])) k = .ok) ∧
        (echoFails (start 0 [0x78])).nextInput.1 = some (.byte 0x78) ∧ (echoFails (start 0 [0x78])).nextEcho.1 = .fail 3) ∧
      ((∀ k < params.inPrompt.length, outAnswerAt (start 0 []) k = .ok) ∧ (start 0 []).nextInput.1 = some (.fail 1)) ∧
      ((∀ k < params.inPrompt.length, outAnswerAt (silent (start 0 [])) k = .ok) ∧ (silent (start 0 [])).nextInput.1 = none) ∧
      (0 < ([0x45] : List Byte).length ∧ (∀ m < 0, outAnswerAt (outFails State.reset) m = .ok) ∧
        outAnswerAt (outFails State.reset) 0 = .fail 2) :=
  ⟨fun _ _ => rfl, rfl, rfl, ⟨fun _ _ => rfl, rfl, rfl⟩, ⟨fun _ _ => rfl, rfl⟩, ⟨fun _ _ => rfl, rfl⟩,
    ⟨by decide, fun _ h => absurd h (Nat.not_lt_zero _), rfl⟩⟩

theorem witness_PutspFollowsItsRule :
    (walking .putsp 0xFFFF (start 0 [])).run = .running ∧
      (walking .putsp 0xFFFF (start 0 [])).job = some { kind := .putsp, cursor := 0xFFFF } ∧
      (0xFFFF : Word) ≠ params.kbsrAddr ∧ (walking .putsp 0xFFFF (start 0 [])).memAt 0xFFFF = 0 ∧
      (poke 0xFFFF 0x0021 (start 0 [])).memAt 0xFFFF ≠ 0 ∧
      ((poke 0xFFFF 0x0021 (start 0 [])).memAt 0xFFFF).extractLsb' 8 8 = 0#8 ∧
      ((poke 0xFFFF 0x6900 (start 0 [])).memAt 0xFFFF).extractLsb' 8 8 ≠ 0#8 ∧
      outAnswerAt (start 0 []) 0 = .ok ∧ outAnswerAt (start 0 []) 1 = .ok ∧
      outAnswerAt (outFails (start 0 [])) 0 = .fail 2 ∧
      outAnswerAt ((start 0 []).withOutAnswers { listed := [.ok, .fail 2], later := .free, drawn := 0 }) 0 = .ok ∧
      outAnswerAt ((start 0 []).withOutAnswers { listed := [.ok, .fail 2], later := .free, drawn := 0 }) 1 = .fail 2 := by
  decide

theorem witness_AStringReadsTheKeyboardToo :
    (∀ k ∈ [StringKind.puts, .putsp], (walking k 0xFE00 (start 0 [0x78])).run = .running ∧
      (walking k 0xFE00 (start 0 [0x78])).job = some { kind := k, cursor := params.kbsrAddr }) ∧
    (walking .puts 0xFE00 (start 0 [0x00])).nextInput.1 = some (.byte 0) ∧ (0x78 : Byte) ≠ 0 ∧
    (∀ k < (statusBytes .putsp).length, outAnswerAt (walking .putsp 0xFE00 (start 0 [0x78])) k = .ok) ∧
    (walking .puts 0xFE00 (start 0 [0x78])).nextInput.1 = some (.byte 0x78) ∧ 1 < (statusBytes .putsp).length ∧
    (∀ m < 1, outAnswerAt ((walking .putsp 0xFE00 (start 0 [0x78])).withOutAnswers
      { listed := [.ok, .fail 2], later := .free, drawn := 0 }) m = .ok) ∧
    outAnswerAt ((walking .putsp 0xFE00 (start 0 [0x78])).withOutAnswers
      { listed := [.ok, .fail 2], later := .free, drawn := 0 }) 1 = .fail 2 ∧
    outAnswerAt (outFails (walking .puts 0xFE00 (start 0 [0x78]))) 0 = .fail 2 ∧
    (walking .puts 0xFE00 (start 0 [])).nextInput.1 = some (.fail 1) ∧
    (silent (walking .puts 0xFE00 (start 0 []))).nextInput.1 = none := by decide

/-- A string of two words that wraps from 0xFFFF to 0x0000, with its zero word at 0x0001. -/
def wrapping : State := walking .puts 0xFFFF (poke 0xFFFF 0x0041 (poke 0x0000 0x0042 (start 0 [])))

theorem witness_AWholeStringIsEmitted :
    wrapping.run = .running ∧ wrapping.job = some { kind := .puts, cursor := 0xFFFF } ∧
      (∀ k : Nat, k ≤ [0x0041, 0x0042].length → (0xFFFF : Word) + BitVec.ofNat 16 k ≠ params.kbsrAddr) ∧
      (∀ k : Nat, ∀ h : k < ([0x0041, 0x0042] : List Word).length,
        ([0x0041, 0x0042] : List Word)[k] ≠ 0 ∧ wrapping.memAt (0xFFFF + BitVec.ofNat 16 k) = ([0x0041, 0x0042] : List Word)[k]) ∧
      wrapping.memAt (0xFFFF + BitVec.ofNat 16 ([0x0041, 0x0042] : List Word).length) = 0 ∧
      (∀ m < (([0x0041, 0x0042] : List Word).flatMap (stringBytes .puts)).length, outAnswerAt wrapping m = .ok) := by
  refine ⟨by decide, by decide, by decide, ?_, by decide, fun m _ => rfl⟩
  intro k h
  match k, h with
  | 0, _ => show (0x0041 : Word) ≠ 0 ∧ wrapping.memAt 0xFFFF = 0x0041; decide
  | 1, _ => show (0x0042 : Word) ≠ 0 ∧ wrapping.memAt 0x0000 = 0x0042; decide

end Sys2Proof.Tests
end

/-! PROOFS. The parameters' values and sign extension (rules R7, R10). -/

namespace Sys2Proof.Machine

/-- The formula of rule R10 is the library's two's-complement sign extension, for every field that fits in a word. -/
theorem sext_eq_signExtend {n : Nat} (hn : n ≤ 16) (f : BitVec n) : sext f = f.signExtend 16 := by
  have hmsb : f.getLsbD (n - 1) = f.msb := (BitVec.msb_eq_getLsbD_last f).symm
  apply BitVec.eq_of_toNat_eq
  rw [BitVec.toNat_signExtend, sext, hmsb]
  cases h : f.msb with
  | false => simp
  | true =>
    have hf : f.toNat < 2 ^ n := f.isLt
    have hpow : 2 ^ n ≤ 65536 := Nat.pow_le_pow_right (by decide) hn
    simp only [if_true, BitVec.toNat_add, BitVec.toNat_setWidth, BitVec.toNat_ofNat]
    omega

theorem sext_toInt {n : Nat} (hn : n ≤ 16) (f : BitVec n) : (sext f).toInt = f.toInt := by
  rw [sext_eq_signExtend hn, BitVec.toInt_signExtend_of_le hn]

/-- The numeric form of rule R10: the sign bit, where it is set, adds 65536 - 2^n. -/
theorem sext_toNat {n : Nat} (hn : n ≤ 16) (f : BitVec n) :
    (sext f).toNat = f.toNat + if f.getLsbD (n - 1) then 65536 - 2 ^ n else 0 := by
  rw [sext_eq_signExtend hn, BitVec.toNat_signExtend, BitVec.toNat_setWidth_of_le hn, BitVec.msb_eq_getLsbD_last]

end Sys2Proof.Machine

namespace Sys2Proof.Proofs

open Sys2Proof.Machine

/-- Settles O2: each clause reads the values out of the one configuration record. -/
theorem parametersHaveTheSpecsValues : Obligations.ParametersHaveTheSpecsValues :=
  ⟨rfl, rfl, rfl, rfl, rfl, rfl, rfl⟩

/-- Settles O7: the four widths fit in a word, and for such a width `sext` follows its formula and keeps the value. -/
theorem signExtensionKeepsTheSignedValue : Obligations.SignExtensionKeepsTheSignedValue := by
  intro n hmem f
  have hn : n ≤ 16 := (by decide : ∀ m ∈ [5, 6, 9, 11], m ≤ 16) n hmem
  refine ⟨fun hset => ?_, fun hclear => ?_, sext_toInt hn f⟩
  · rw [sext_toNat hn, if_pos hset]
  · simp [sext_toNat hn, hclear]

end Sys2Proof.Proofs

/-! PROOFS. What reading the keyboard and writing to the streams leaves, and from it what an instruction and a step can
do: one inversion lemma for `exec` and one for `step` (rules R53, R57, R111, R177). -/

namespace Sys2Proof.Machine

open Sys2Proof.Safety

/-- The status word names no device: a read through it does not ask the input stream again (rule R57). -/
theorem statusWord_ne_kbsrAddr (b : Byte) : statusWord b ≠ params.kbsrAddr := by
  unfold statusWord
  split <;> decide

/-- A `MemRead` that answers a word: a stored word with nothing changed, or the status word after the device's update. -/
theorem memRead_ok {a w : Word} {s u : State} (h : memRead a s = .done (.ok w) u) :
    (a ≠ params.kbsrAddr ∧ w = s.memAt a ∧ u = s) ∨
    (a = params.kbsrAddr ∧ ∃ b, s.nextInput.1 = some (.byte b) ∧ w = statusWord b ∧
      u = keyboardUpdate b (s.withInput s.nextInput.2)) := by
  by_cases ha : a = params.kbsrAddr
  · rw [memRead_eq, if_pos ha] at h
    match hin : s.nextInput.1, h with
    | some (.byte b), h =>
      obtain ⟨hw, hu⟩ := Res.done.inj h
      exact .inr ⟨ha, b, rfl, (Except.ok.inj hw).symm.trans (keyboardUpdate_status b _), hu.symm⟩
    | some (.fail c), h => simp at h
  · rw [memRead_plain s ha] at h
    obtain ⟨hw, hu⟩ := Res.done.inj h
    exact .inl ⟨ha, (Except.ok.inj hw).symm, hu.symm⟩

/-- A `MemRead` that fails: only at the keyboard-status address, and only the answer is gone (rule R55). -/
theorem memRead_error {a : Word} {c : Cause} {s u : State} (h : memRead a s = .done (.error c) u) :
    a = params.kbsrAddr ∧ s.nextInput.1 = some (.fail c) ∧ u = s.withInput s.nextInput.2 := by
  by_cases ha : a = params.kbsrAddr
  · rw [memRead_eq, if_pos ha] at h
    match hin : s.nextInput.1, h with
    | some (.byte b), h => simp at h
    | some (.fail d), h =>
      obtain ⟨hd, hu⟩ := Res.done.inj h
      exact ⟨ha, by rw [Except.error.inj hd], hu.symm⟩
  · rw [memRead_plain s ha] at h
    simp at h

/-- The device's update of memory does not depend on the streams. -/
theorem keyboardUpdate_withInput_mem (b : Byte) (s : State) (q : Supply (Option InAnswer)) :
    (keyboardUpdate b (s.withInput q)).mem = (keyboardUpdate b s).mem := by
  unfold keyboardUpdate
  split
  · split <;> rfl
  · rfl

/-- What reads and writes of the devices leave: the register file, the run state and the string handler are as they
were, at most one input answer is gone, and only with it is memory changed, by the device's own update. -/
structure IoOnly (s u : State) : Prop where
  regs : u.regs = s.regs
  pc : u.pc = s.pc
  cond : u.cond = s.cond
  run : u.run = s.run
  job : u.job = s.job
  device : (u.input = s.input ∧ u.mem = s.mem) ∨
    (u.input = s.nextInput.2 ∧ (u.mem = s.mem ∨ ∃ b, u.mem = (keyboardUpdate b s).mem))

namespace IoOnly

theorem refl (s : State) : IoOnly s s := ⟨rfl, rfl, rfl, rfl, rfl, .inl ⟨rfl, rfl⟩⟩

theorem inputTaken (s : State) : IoOnly s (s.withInput s.nextInput.2) := ⟨rfl, rfl, rfl, rfl, rfl, .inr ⟨rfl, .inl rfl⟩⟩

theorem keyboardRead (b : Byte) (s : State) : IoOnly s (keyboardUpdate b (s.withInput s.nextInput.2)) where
  regs := by simp
  pc := by simp
  cond := by simp
  run := by simp
  job := by simp
  device := .inr ⟨by simp, .inr ⟨b, keyboardUpdate_withInput_mem b s _⟩⟩

theorem memRead {a : Word} {r : Except Cause Word} {s u : State} (h : memRead a s = .done r u) : IoOnly s u := by
  match r, h with
  | .ok w, h =>
    obtain ⟨-, -, rfl⟩ | ⟨-, b, -, -, rfl⟩ := memRead_ok h
    · exact refl u
    · exact keyboardRead b s
  | .error c, h =>
    obtain ⟨-, -, rfl⟩ := memRead_error h
    exact inputTaken s

theorem inByte {r : Except Cause Byte} {s u : State} (h : inByte s = .done r u) : IoOnly s u := by
  rw [inByte_eq] at h
  match s.nextInput.1, h with
  | some a, h =>
    obtain ⟨-, rfl⟩ := Res.done.inj h
    exact inputTaken s

variable {s u : State}

theorem outBytes (h : IoOnly s u) (bs : List Byte) : IoOnly s (outBytes bs u).2 := by
  obtain ⟨q, n, e, -⟩ := outBytes_spec bs u
  rw [e]
  exact ⟨h.regs, h.pc, h.cond, h.run, h.job, h.device⟩

theorem outByte (h : IoOnly s u) (b : Byte) : IoOnly s (outByte b u).2 := by
  rw [outByte_eq]
  split <;> exact ⟨h.regs, h.pc, h.cond, h.run, h.job, h.device⟩

theorem echoByte (h : IoOnly s u) (b : Byte) : IoOnly s (echoByte b u).2 := by
  rw [echoByte_eq]
  split <;> exact ⟨h.regs, h.pc, h.cond, h.run, h.job, h.device⟩

/-- A read after writes to the output stream takes the answer the input stream had before them. -/
theorem inByte_outBytes {bs : List Byte} {r : Except Cause Byte} (h : Machine.inByte (Machine.outBytes bs s).2 = .done r u) :
    IoOnly s u := by
  rw [inByte_eq, outBytes_nextInput] at h
  obtain ⟨q, n, e, -⟩ := outBytes_spec bs s
  rw [e] at h
  match s.nextInput.1, h with
  | some a, h =>
    obtain ⟨-, rfl⟩ := Res.done.inj h
    exact ⟨rfl, rfl, rfl, rfl, rfl, .inr ⟨rfl, .inl rfl⟩⟩

theorem reg (h : IoOnly s u) (r : Reg) : u.reg r = s.reg r := congrArg (·.get r) h.regs

theorem input (h : IoOnly s u) : u.input = s.input ∨ u.input = s.nextInput.2 := h.device.imp And.left And.left

theorem wf (h : IoOnly s u) (hs : s.mem.wf) : u.mem.wf := by
  obtain ⟨-, hm⟩ | ⟨-, hm | ⟨b, hm⟩⟩ := h.device
  · rwa [hm]
  · rwa [hm]
  · rw [hm]
    exact keyboardUpdate_wf hs b

end IoOnly

/-- The link write that opens JSR, JSRR and every TRAP (rules R143, R144, R170); the others begin where they are. -/
def opening (i : Instr) (s : State) : State :=
  match i with
  | .jsr _ | .jsrr _ => link s
  | .trap _ | .trapGetc | .trapOut | .trapPuts | .trapIn | .trapPutsp | .trapHalt | .trapOther _ => link s
  | _ => s

@[simp] theorem opening_pc (i : Instr) (s : State) : (opening i s).pc = s.pc := by cases i <;> rfl
@[simp] theorem opening_cond (i : Instr) (s : State) : (opening i s).cond = s.cond := by cases i <;> rfl
@[simp] theorem opening_mem (i : Instr) (s : State) : (opening i s).mem = s.mem := by cases i <;> rfl
@[simp] theorem opening_run (i : Instr) (s : State) : (opening i s).run = s.run := by cases i <;> rfl
@[simp] theorem opening_job (i : Instr) (s : State) : (opening i s).job = s.job := by cases i <;> rfl
@[simp] theorem opening_input (i : Instr) (s : State) : (opening i s).input = s.input := by cases i <;> rfl
@[simp] theorem opening_nextInput (i : Instr) (s : State) : (opening i s).nextInput = s.nextInput := by cases i <;> rfl

/-- The four instructions that may write the PC (rule R25). -/
def isJump (i : Instr) : Bool :=
  match i with
  | .br _ _ _ _ | .jmp _ | .jsr _ | .jsrr _ => true
  | _ => false

/-- How an instruction ends after its reads and writes of the devices: with a result and its flags, FAILED, with a
store, at a new PC, with a string to walk, HALTED, or with nothing more to do. -/
inductive Ends (i : Instr) (u : State) : State → Prop
  | result {dr : Reg} {v : Word} : flagSource i = some dr → Ends i u (writeResult dr v u)
  | failed {f : Fault} : Ends i u (raise f u)
  | stored {a v : Word} : flagSource i = none → isStore i = true → Ends i u (memWrite a v u)
  | jumped {v : Word} : flagSource i = none → isJump i = true → Ends i u (u.withPc v)
  | walks {j : StringJob} : flagSource i = none → Ends i u (u.withJob (some j))
  | halted : flagSource i = none → Ends i u (halt u)
  | done : flagSource i = none → Ends i u u

/-- The generic TRAP row has the traits of the row of its vector (rule R170). -/
theorem trapRow_traits (v : BitVec 8) :
    flagSource (trapRow v) = flagSource (.trap v) ∧ isStore (trapRow v) = false ∧ isJump (trapRow v) = false ∧
      isBranch (trapRow v) = false ∧ ∀ s, opening (trapRow v) s = link s := by
  have hnone : serviceOf v = none → ∀ t, v ≠ params.vector t := by
    rintro h t rfl
    simp at h
  unfold trapRow
  match h : serviceOf v with
  | none => exact ⟨(if_neg (by simp [hnone h])).symm, rfl, rfl, rfl, fun _ => rfl⟩
  | some .getc | some .out | some .puts | some .inp | some .putsp | some .halt =>
    obtain rfl := vector_of_serviceOf h
    exact ⟨rfl, rfl, rfl, rfl, fun _ => rfl⟩

theorem Ends.of_trapRow {v : BitVec 8} {u t : State} (h : Ends (trapRow v) u t) : Ends (.trap v) u t := by
  obtain ⟨hf, hs, hj, -, -⟩ := trapRow_traits v
  cases h with
  | result h => exact .result (hf ▸ h)
  | failed => exact .failed
  | stored _ h => simp [hs] at h
  | jumped _ h => simp [hj] at h
  | walks h => exact .walks (hf ▸ h)
  | halted h => exact .halted (hf ▸ h)
  | done h => exact .done (hf ▸ h)

section
variable {i : Instr} {s t : State}

theorem load_ends {dr : Reg} {a : Word} (hi : flagSource i = some dr) (h : load dr a s = .next t) :
    ∃ u, IoOnly s u ∧ Ends i u t := by
  obtain ⟨w, u, hr, rfl⟩ | ⟨c, u, hr, rfl⟩ := Res.finish_next h
  · exact ⟨u, .memRead hr, .result hi⟩
  · exact ⟨u, .memRead hr, .failed⟩

/-- LDI takes at most one input answer: a pointer read from the keyboard is a status word, whose own read is plain. -/
theorem execLdi_ends {dr : Reg} {off : BitVec 9} (h : execLdi dr off s = .next t) :
    ∃ u, IoOnly s u ∧ Ends (.ldi dr off) u t := by
  obtain ⟨p, u, hr, hl⟩ | ⟨c, u, hr, rfl⟩ := Res.andThen_next h
  · obtain ⟨-, -, rfl⟩ | ⟨-, b, -, rfl, -⟩ := memRead_ok hr
    · exact load_ends rfl hl
    · rw [load, memRead_plain u (statusWord_ne_kbsrAddr b)] at hl
      obtain rfl := Host.Outcome.next.inj hl
      exact ⟨u, .memRead hr, .result rfl⟩
  · exact ⟨u, .memRead hr, .failed⟩

theorem execSti_ends {sr : Reg} {off : BitVec 9} (h : execSti sr off s = .next t) :
    ∃ u, IoOnly s u ∧ Ends (.sti sr off) u t := by
  obtain ⟨p, u, hr, rfl⟩ | ⟨c, u, hr, rfl⟩ := Res.finish_next h
  · exact ⟨u, .memRead hr, .stored rfl rfl⟩
  · exact ⟨u, .memRead hr, .failed⟩

theorem serviceGetc_ends (h : serviceGetc s = .next t) : ∃ u, IoOnly s u ∧ Ends .trapGetc u t := by
  obtain ⟨b, u, hr, rfl⟩ | ⟨c, u, hr, rfl⟩ := Res.finish_next h
  · exact ⟨u, .inByte hr, .result rfl⟩
  · exact ⟨u, .inByte hr, .failed⟩

theorem serviceOut_ends (h : serviceOut s = .next t) : ∃ u, IoOnly s u ∧ Ends .trapOut u t := by
  obtain rfl := Host.Outcome.next.inj h
  refine ⟨_, (IoOnly.refl s).outByte (lowByte (s.reg .r0)), ?_⟩
  obtain ⟨-, e⟩ | ⟨c, -, e⟩ := afterWrites_cases (outByte (lowByte (s.reg .r0)) s) id
  · rw [e]
    exact .done rfl
  · rw [e]
    exact .failed

/-- IN, in the order of rule R178: the prompt leaves the input stream alone, the read takes one answer, the echo none. -/
theorem serviceIn_ends (h : serviceIn s = .next t) : ∃ u, IoOnly s u ∧ Ends .trapIn u t := by
  rw [serviceIn, serviceInWith_in_order] at h
  have hp := (IoOnly.refl s).outBytes params.inPrompt
  have hr : ∀ r u, inByte (outBytes params.inPrompt s).2 = .done r u → IoOnly s u := fun _ _ => IoOnly.inByte_outBytes
  match outBytes params.inPrompt s, hp, hr, h with
  | (some c, v), hp, _, h =>
    obtain rfl := Host.Outcome.next.inj h
    exact ⟨v, hp, .failed⟩
  | (none, v), _, hr, h =>
    obtain ⟨b, u, hu, rfl⟩ | ⟨c, u, hu, rfl⟩ := Res.finish_next h
    · refine ⟨_, (hr _ _ hu).echoByte b, ?_⟩
      obtain ⟨-, e⟩ | ⟨c, -, e⟩ := afterWrites_cases (echoByte b u) (storeByte b)
      · rw [echoAndStore, e]
        exact .result rfl
      · rw [echoAndStore, e]
        exact .failed
    · exact ⟨u, hr _ _ hu, .failed⟩

theorem exec_row_ends (hi : ∀ v, i ≠ .trap v) (h : exec i s = .next t) : ∃ u, IoOnly (opening i s) u ∧ Ends i u t := by
  cases i with
  | addReg | addImm | andReg | andImm | not | lea =>
    obtain rfl := Host.Outcome.next.inj h
    exact ⟨s, .refl s, .result rfl⟩
  | br n z p off =>
    obtain rfl := Host.Outcome.next.inj h
    refine ⟨s, .refl s, ?_⟩
    split
    · exact .jumped rfl rfl
    · exact .done rfl
  | jmp =>
    obtain rfl := Host.Outcome.next.inj h
    exact ⟨s, .refl s, .jumped rfl rfl⟩
  | jsr | jsrr =>
    obtain rfl := Host.Outcome.next.inj h
    exact ⟨link s, .refl _, .jumped rfl rfl⟩
  | ld | ldr => exact load_ends rfl h
  | ldi => exact execLdi_ends h
  | st | str =>
    obtain rfl := Host.Outcome.next.inj h
    exact ⟨s, .refl s, .stored rfl rfl⟩
  | sti => exact execSti_ends h
  | trap v => exact absurd rfl (hi v)
  | trapGetc => exact serviceGetc_ends h
  | trapOut => exact serviceOut_ends h
  | trapPuts | trapPutsp =>
    obtain rfl := Host.Outcome.next.inj h
    exact ⟨link s, .refl _, .walks rfl⟩
  | trapIn => exact serviceIn_ends h
  | trapHalt =>
    obtain rfl := Host.Outcome.next.inj h
    exact ⟨link s, .refl _, .halted rfl⟩
  | trapOther =>
    obtain rfl := Host.Outcome.next.inj h
    exact ⟨link s, .refl _, .failed⟩
  | rti | reserved =>
    obtain rfl := Host.Outcome.next.inj h
    exact ⟨s, .refl s, .failed⟩

/-- What an instruction can do: its link write, then reads and writes of the devices, then one of its endings. -/
theorem exec_ends (h : exec i s = .next t) : ∃ u, IoOnly (opening i s) u ∧ Ends i u t := by
  cases i with
  | trap v =>
    rw [execTrap_eq_row] at h
    obtain ⟨u, hio, he⟩ := exec_row_ends (trapRow_wellFormed v).2 h
    obtain ⟨-, -, -, -, hlink⟩ := trapRow_traits v
    rw [hlink] at hio
    exact ⟨u, hio, he.of_trapRow⟩
  | _ => exact exec_row_ends (by simp) h

end

/-- What a step can do: a micro-step of a string, which goes on or fails; a fetch that fails; or an instruction run after
its fetch, at the incremented PC. -/
inductive StepEnds (s : State) : State → Prop
  | walked {j : StringJob} {job : Option StringJob} {u : State} : s.job = some j → IoOnly s u → StepEnds s (u.withJob job)
  | walkFailed {j : StringJob} {f : Fault} {u : State} : s.job = some j → IoOnly s u → StepEnds s (raise f u)
  | fetchFailed {c : Cause} : s.job = none → s.pc = params.kbsrAddr → s.nextInput.1 = some (.fail c) →
      StepEnds s (raise (.ioFailure c) (s.withInput s.nextInput.2))
  | ran {w : Word} {u t : State} : s.job = none → memRead s.pc s = .done (.ok w) u →
      exec (decode w) (advance u) = .next t → StepEnds s t

/-- A step with a next state is a step of a RUNNING machine (rule R118). -/
theorem step_next_running {s t : State} (h : step s = .next t) : s.run = .running := by
  unfold step stepWith at h
  split at h
  · simp at h
  · simp at h
  · assumption

theorem step_ends {s t : State} (h : step s = .next t) : StepEnds s t := by
  have hr := step_next_running h
  match hj : s.job with
  | none =>
    rw [step_fetches hr hj] at h
    obtain ⟨w, u, hw, hx⟩ | ⟨c, u, hc, rfl⟩ := Res.andThen_next h
    · exact .ran hj hw hx
    · obtain ⟨hpc, hin, rfl⟩ := memRead_error hc
      exact .fetchFailed hj hpc hin
  | some j =>
    rw [step_string hr hj] at h
    obtain ⟨w, u, hw, rfl⟩ | ⟨c, u, hc, rfl⟩ := Res.finish_next h
    · have hu := IoOnly.memRead hw
      unfold stringWord
      split
      · exact .walked hj hu
      · obtain ⟨-, e⟩ | ⟨c, -, e⟩ := afterWrites_cases (outBytes (stringBytes j.kind w) u)
          fun t => t.withJob (some { j with cursor := j.cursor + 1 })
        · rw [e]
          exact .walked hj (hu.outBytes _)
        · rw [e]
          exact .walkFailed hj (hu.outBytes _)
    · exact .walkFailed hj (.memRead hc)

/-! The traits of the instructions and the operations that the statements turn on. -/

/-- The tag of a word is a legal value of COND (rule R30). -/
theorem condLegal_tagOf (v : Word) : CondLegal (tagOf v) := by
  obtain h | h | h := tagOf_cases v
  · exact .inr (.inl h)
  · exact .inr (.inr h)
  · exact .inl h

/-- The register COND is set from is one that the instruction may write (rules R23, R29). -/
theorem flagSource_mem_destinations {i : Instr} {r : Reg} (h : flagSource i = some r) : r ∈ destinations i := by
  cases i with
  | addReg | addImm | andReg | andImm | not | ld | ldi | ldr | lea | trapGetc | trapIn =>
    obtain rfl := Option.some.inj h
    exact List.mem_cons_self
  | trap v =>
    simp only [flagSource] at h
    split at h
    · next hv =>
      obtain rfl := Option.some.inj h
      rw [destinations, if_pos hv]
      exact List.mem_cons_self
    · simp at h
  | _ => simp [flagSource] at h

/-- The link write is of a register that rule R23 lists. -/
theorem opening_reg {i : Instr} {r : Reg} (h : r ∉ destinations i) (s : State) : (opening i s).reg r = s.reg r := by
  have hlink (h7 : r ≠ .r7) : (link s).reg r = s.reg r := by rw [link_reg, if_neg h7]
  cases i with
  | trap v =>
    refine hlink fun e => h ?_
    simp only [destinations]
    split <;> simp [e]
  | jsr | jsrr | trapGetc | trapOut | trapPuts | trapIn | trapPutsp | trapHalt | trapOther =>
    exact hlink fun e => h (by simp [destinations, e])
  | _ => rfl

/-- The status word decodes to a BR that is never taken or to RTI (rules R53, R112). -/
theorem decode_statusWord (b : Byte) : decode (statusWord b) = .br false false false 0 ∨ decode (statusWord b) = .rti := by
  unfold statusWord
  split
  · exact .inl (by decide)
  · exact .inr (by decide)

/-- The instruction fetched from the status word takes no further answer. -/
theorem exec_statusWord_input {b : Byte} {s t : State} (h : exec (decode (statusWord b)) s = .next t) :
    t.input = s.input := by
  obtain e | e := decode_statusWord b
  · rw [e] at h
    obtain rfl := Host.Outcome.next.inj h
    split <;> rfl
  · rw [e] at h
    obtain rfl := Host.Outcome.next.inj h
    rfl

theorem maskWord_eq_maskNumber (n z p : Bool) : maskWord n z p = maskNumber n z p := by
  cases n <;> cases z <;> cases p <;> decide

/-- An instruction but the four jumps leaves the PC it runs at (rule R25). -/
theorem exec_keeps_pc {i : Instr} {s t : State} (hi : isJump i = false) (h : exec i s = .next t) : t.pc = s.pc := by
  obtain ⟨u, hu, he⟩ := exec_ends h
  have hpc : u.pc = s.pc := by rw [hu.pc, opening_pc]
  cases he with
  | jumped _ hj => simp [hi] at hj
  | _ => exact hpc

/-- The PC an instruction leaves, from the state before the PC's increment (rule R25). -/
theorem exec_advance_pc {i : Instr} {s t : State} (h : exec i (advance s) = .next t) : t.pc = pcAfter i s := by
  cases i with
  | br n z p off =>
    obtain rfl := Host.Outcome.next.inj h
    simp only [branchTaken, maskWord_eq_maskNumber, pcAfter, bne_iff_ne]
    split <;> simp_all [advance, pcRelative]
  | jmp =>
    obtain rfl := Host.Outcome.next.inj h
    rfl
  | jsr =>
    obtain rfl := Host.Outcome.next.inj h
    rfl
  | jsrr base =>
    obtain rfl := Host.Outcome.next.inj h
    exact link_reg (advance s) base
  | _ => exact exec_keeps_pc rfl h

/-- What a fetch leaves decides the same next PC as the state before it. -/
theorem IoOnly.pcAfter {s u : State} (h : IoOnly s u) (i : Instr) : pcAfter i u = pcAfter i s := by
  cases i <;> simp [Safety.pcAfter, h.pc, h.cond, h.reg]

/-- An instruction takes at most one input answer (rule R57). -/
theorem exec_input {i : Instr} {s t : State} (h : exec i s = .next t) : t.input = s.input ∨ t.input = s.nextInput.2 := by
  obtain ⟨u, hu, he⟩ := exec_ends h
  have hin : u.input = s.input ∨ u.input = s.nextInput.2 := by simpa using hu.input
  cases he <;> exact hin

/-- Reads and writes of the devices keep the invariant. -/
theorem IoOnly.inv {s u : State} (h : IoOnly s u) (hs : Inv s) : Inv u := by
  obtain ⟨hmem, hcond, hjob⟩ := hs
  exact ⟨h.wf hmem, by rwa [h.cond], by rwa [h.job, h.run]⟩

theorem raise_inv {s : State} (hs : Inv s) (f : Fault) : Inv (raise f s) := by
  obtain ⟨hmem, hcond, -⟩ := hs
  exact ⟨hmem, hcond, fun e => absurd rfl e⟩

/-- An instruction run while RUNNING, with no string in progress, keeps the invariant. -/
theorem exec_keeps_inv {i : Instr} {s t : State} (hs : Inv s) (hrun : s.run = .running) (hjob : s.job = none)
    (h : exec i s = .next t) : Inv t := by
  obtain ⟨u, hu, he⟩ := exec_ends h
  have hi : Inv u := hu.inv (by simpa [Safety.Inv] using hs)
  have hr : u.run = .running := by rw [hu.run, opening_run, hrun]
  have hj : u.job = none := by rw [hu.job, opening_job, hjob]
  have ⟨hmem, hcond, _⟩ := hi
  cases he with
  | result => exact ⟨hmem, by rw [writeResult_cond]; exact condLegal_tagOf _, fun _ => hr⟩
  | failed => exact raise_inv hi _
  | stored => exact ⟨memWrite_wf hmem _ _, hcond, fun _ => hr⟩
  | jumped | walks | done => exact ⟨hmem, hcond, fun _ => hr⟩
  | halted => exact ⟨hmem, hcond, fun e => absurd hj e⟩

end Sys2Proof.Machine

namespace Sys2Proof.Proofs

open Sys2Proof.Machine Sys2Proof.Safety

/-- Settles O11, by what a step can do: reads and writes of the devices keep the invariant, and so does every ending. -/
theorem everyStepKeepsTheInvariant : Obligations.EveryStepKeepsTheInvariant := by
  intro s t hs h
  have hrun := step_next_running h
  cases step_ends h with
  | walked _ hu =>
    obtain ⟨hmem, hcond, -⟩ := hu.inv hs
    exact ⟨hmem, hcond, fun _ => hu.run.trans hrun⟩
  | walkFailed _ hu => exact raise_inv (hu.inv hs) _
  | fetchFailed => exact raise_inv ((IoOnly.inputTaken s).inv hs) _
  | @ran w u _ hjob hw hx =>
    have hu := IoOnly.memRead hw
    have hi : Inv (advance u) := hu.inv hs
    exact exec_keeps_inv hi (hu.run.trans hrun) (hu.job.trans hjob) hx

/-- Settles O22: a fetch that takes an answer runs a BR or RTI, which takes none; LDI's two reads are in `execLdi_ends`. -/
theorem aStepTakesAtMostOneInputAnswer : Obligations.AStepTakesAtMostOneInputAnswer := by
  intro s t h
  cases step_ends h with
  | walked _ hu => exact hu.input
  | walkFailed _ hu => exact hu.input
  | fetchFailed => exact .inr rfl
  | ran _ hw hx =>
    obtain ⟨-, -, rfl⟩ | ⟨-, b, -, rfl, rfl⟩ := memRead_ok hw
    · exact exec_input (s := advance _) hx
    · exact .inr ((exec_statusWord_input hx).trans (keyboardUpdate_input b _))

/-- Settles O23: the fetch leaves everything the next PC is computed from, and the instruction leaves that PC. -/
theorem everyInstructionLeavesThePcItShould : Obligations.EveryInstructionLeavesThePcItShould := by
  intro s t _ hjob h
  cases step_ends h with
  | walked hj | walkFailed hj => simp [hjob] at hj
  | fetchFailed _ hpc hc => exact ⟨fun hne => absurd hpc hne, fun b _ hb => by simp [hc] at hb⟩
  | ran _ hw hx =>
    rw [exec_advance_pc hx, (IoOnly.memRead hw).pcAfter]
    obtain ⟨hne, rfl, -⟩ | ⟨hpc, b, hb, rfl, -⟩ := memRead_ok hw
    · exact ⟨fun _ => rfl, fun _ hpc => absurd hpc hne⟩
    · refine ⟨fun hne => absurd hpc hne, fun b' _ hb' => ?_⟩
      obtain rfl : b' = b := by simpa [hb'] using hb
      rfl

/-- Settles O24: only the link write and a result write a register, and both are listed. -/
theorem onlyTheListedRegistersAreWritten : Obligations.OnlyTheListedRegistersAreWritten := by
  intro i s t h r hr
  obtain ⟨u, hu, he⟩ := exec_ends h
  have hkept : u.reg r = s.reg r := (hu.reg r).trans (opening_reg hr s)
  cases he with
  | result hi =>
    have hne : r ≠ _ := fun e => hr (e ▸ flagSource_mem_destinations hi)
    rw [writeResult_reg, if_neg hne, hkept]
  | _ => exact hkept

/-- Settles O25: of all the endings of an instruction only a result writes COND. -/
theorem onlyDataInstructionsWriteCond : Obligations.OnlyDataInstructionsWriteCond := by
  intro i s t hrun h
  obtain ⟨u, hu, he⟩ := exec_ends h
  have hc : u.cond = s.cond := by rw [hu.cond, opening_cond]
  have hr : u.run = .running := by rw [hu.run, opening_run, hrun]
  cases he with
  | result hi =>
    refine ⟨fun hn => ?_, fun r hri _ => ?_⟩
    · simp [hi, hr] at hn
    · obtain rfl := Option.some.inj (hi.symm.trans hri)
      rw [writeResult_reg_same, writeResult_cond]
      exact tagOf_sign _
  | failed => exact ⟨fun _ => hc, fun r _ hrun => by simp at hrun⟩
  | stored hi | jumped hi | walks hi | halted hi | done hi =>
    exact ⟨fun _ => hc, fun r hri => by simp [hi] at hri⟩

end Sys2Proof.Proofs

/-! PROOFS. The writes of a byte string, by the answers still to come (rules R35, R119), the reset state (rule R42), and
`setcc` (rule R28). -/

namespace Sys2Proof.Machine

open Sys2Proof.Safety

/-- The stream once `n` answers were drawn. -/
def Supply.skip {α : Type} (free : Nat → α) (q : Supply α) (n : Nat) : Supply α :=
  match n with
  | 0 => q
  | n + 1 => Supply.skip free (q.draw free).2 n

theorem Supply.skip_drawn {α : Type} (free : Nat → α) (q : Supply α) (n : Nat) : (q.skip free n).drawn = q.drawn + n := by
  induction n generalizing q with
  | zero => rfl
  | succ n ih =>
    rw [Supply.skip, ih, Supply.draw_drawn]
    omega

/-- The answer drawn is the first still to come. -/
theorem draw_fst_eq_answerAt {α : Type} (free : Nat → α) (q : Supply α) : (q.draw free).1 = answerAt free q 0 := by
  obtain ⟨a, rest, hl, h⟩ | ⟨a, hl, hlater | ⟨hlater, rfl⟩, h⟩ := q.draw_cases free
  · simp [h, answerAt, hl]
  · simp [h, answerAt, hl, hlater]
  · simp [h, answerAt, hl, hlater]

/-- After a draw the answers still to come are those after the first. -/
theorem answerAt_draw {α : Type} (free : Nat → α) (q : Supply α) (k : Nat) :
    answerAt free (q.draw free).2 k = answerAt free q (k + 1) := by
  obtain ⟨a, rest, hl, h⟩ | ⟨a, hl, -, h⟩ := q.draw_cases free
  · simp [h, answerAt, hl, Nat.add_right_comm, Nat.add_assoc]
  · simp [h, answerAt, hl, Nat.add_right_comm, Nat.add_assoc]

theorem nextOut_fst (s : State) : s.nextOut.1 = outAnswerAt s 0 := draw_fst_eq_answerAt _ _

/-- The state after a byte was emitted. -/
def emitted (b : Byte) (s : State) : State := (s.withOutAnswers s.nextOut.2).withOutput (s.output ++ [b])

theorem outAnswerAt_emitted (b : Byte) (s : State) (k : Nat) : outAnswerAt (emitted b s) k = outAnswerAt s (k + 1) :=
  answerAt_draw _ _ k

theorem outBytes_cons_ok {b : Byte} {bs : List Byte} {s : State} (h : outAnswerAt s 0 = .ok) :
    outBytes (b :: bs) s = outBytes bs (emitted b s) := by
  rw [← nextOut_fst] at h
  simp [outBytes, outByte_eq, h, emitted]

theorem outBytes_cons_fail {b : Byte} {bs : List Byte} {s : State} {c : Cause} (h : outAnswerAt s 0 = .fail c) :
    outBytes (b :: bs) s = (some c, s.withOutAnswers s.nextOut.2) := by
  rw [← nextOut_fst] at h
  simp [outBytes, outByte_eq, h]

/-- The state after `bs` was emitted and `n` answers were drawn for it. -/
def written (bs : List Byte) (n : Nat) (s : State) : State :=
  (s.withOutAnswers (s.outAnswers.skip Config.freeOutput n)).withOutput (s.output ++ bs)

theorem written_emitted (b : Byte) (bs : List Byte) (n : Nat) (s : State) :
    written bs n (emitted b s) = written (b :: bs) (n + 1) s := by
  simp [written, emitted, State.withOutput, State.withOutAnswers, Supply.skip, State.nextOut]

/-- A string whose every answer is Ok is emitted whole. -/
theorem outBytes_ok {bs : List Byte} {s : State} (h : ∀ k < bs.length, outAnswerAt s k = .ok) :
    outBytes bs s = (none, written bs bs.length s) := by
  induction bs generalizing s with
  | nil => simp [outBytes, written, Supply.skip, State.withOutput, State.withOutAnswers]
  | cons b bs ih =>
    have htail : ∀ k < bs.length, outAnswerAt (emitted b s) k = .ok := fun k hk => by
      rw [outAnswerAt_emitted]
      exact h (k + 1) (Nat.succ_lt_succ hk)
    rw [outBytes_cons_ok (h 0 (Nat.succ_pos _)), ih htail, written_emitted, List.length_cons]

/-- A string is emitted up to its first failing answer, which is drawn too. -/
theorem outBytes_fail {bs : List Byte} {s : State} {k : Nat} {c : Cause} (hk : k < bs.length)
    (hok : ∀ m < k, outAnswerAt s m = .ok) (hfail : outAnswerAt s k = .fail c) :
    outBytes bs s = (some c, written (bs.take k) (k + 1) s) := by
  induction bs generalizing s k with
  | nil => simp at hk
  | cons b bs ih =>
    match k with
    | 0 =>
      rw [outBytes_cons_fail hfail]
      simp [written, Supply.skip, State.nextOut, State.withOutput, State.withOutAnswers]
    | k + 1 =>
      have htail : ∀ m < k, outAnswerAt (emitted b s) m = .ok := fun m hm => by
        rw [outAnswerAt_emitted]
        exact hok (m + 1) (Nat.succ_lt_succ hm)
      rw [outBytes_cons_ok (hok 0 (Nat.succ_pos _)),
        ih (Nat.lt_of_succ_lt_succ hk) htail ((outAnswerAt_emitted b s k).trans hfail), written_emitted, List.take_succ_cons]

theorem resetWith_inv {image : Memory} (h : image.wf) : Inv (State.resetWith image) :=
  ⟨h, .inr (.inl rfl), fun _ => rfl⟩

end Sys2Proof.Machine

namespace Sys2Proof.Proofs

open Sys2Proof.Machine Sys2Proof.Safety

/-- Settles O16, by the two inductions over the string, `outBytes_ok` and `outBytes_fail`. -/
theorem writesStopAtTheFirstFailure : Obligations.WritesStopAtTheFirstFailure := by
  intro s bs
  have hframe (ds : List Byte) (n : Nat) : RegsKeptBut [] s (written ds n s) ∧ PcCondKept s (written ds n s) ∧
      RunKept s (written ds n s) ∧ MemKept s (written ds n s) ∧ (written ds n s).input = s.input ∧
      EchoKept s (written ds n s) :=
    ⟨fun _ _ => rfl, ⟨rfl, rfl⟩, ⟨rfl, rfl⟩, fun _ => rfl, rfl, rfl, rfl⟩
  exact ⟨fun hok => ⟨_, outBytes_ok hok, rfl, Supply.skip_drawn _ _ _, hframe _ _⟩,
    fun k c hk hok hfail => ⟨_, outBytes_fail hk hok hfail, rfl, Supply.skip_drawn _ _ _, hframe _ _⟩⟩

/-- Settles O8: the register file at reset is zero, and the other fields are read off. -/
theorem resetLeavesTheSpecsValues : Obligations.ResetLeavesTheSpecsValues := by
  refine fun image => ⟨fun r => ?_, rfl, rfl, rfl, fun _ => rfl⟩
  cases r <;> rfl

/-- Settles O9: every field is read off, and the first answer of a stream with none listed is its free one. -/
theorem resetLeavesTheStreamsUntouched : Obligations.ResetLeavesTheStreamsUntouched :=
  fun _ => ⟨rfl, rfl, rfl, rfl, rfl, rfl, rfl, rfl, rfl⟩

/-- Settles O10: COND is the ZERO tag and the machine RUNNING, and the empty memory is canonical. -/
theorem resetMeetsTheInvariant : Obligations.ResetMeetsTheInvariant :=
  ⟨resetWith_inv Memory.wf_nil, fun _ => resetWith_inv⟩

/-- Settles O15: `setcc` writes the tag of the register's word, by the two tests of `tagOf`. -/
theorem setccFollowsTheRegister : Obligations.SetccFollowsTheRegister := by
  intro s r
  refine ⟨fun hz => ?_, fun hz hn => ?_, fun hz hp => ?_, fun _ _ => rfl, rfl, ⟨rfl, rfl⟩, fun _ => rfl, rfl, ⟨rfl, rfl⟩,
    ⟨rfl, rfl⟩⟩
  · rw [setcc_cond, tagOf, if_pos hz]
  · rw [setcc_cond, tagOf, if_neg hz, if_pos hn]
  · rw [setcc_cond, tagOf, if_neg hz, if_neg (Bool.eq_false_iff.mp hp)]

/-- Settles O17: the fetch is a plain read. -/
theorem aStepRunsTheDecodedInstruction : Obligations.AStepRunsTheDecodedInstruction := by
  intro s hr hj hpc
  rw [step_fetches hr hj, memRead_plain s hpc]
  rfl

end Sys2Proof.Proofs

/-! PROOFS. Two runs side by side: the core does the same from states that differ only in COND and in what was emitted so
far (rules R29, R35, R36). One simulation serves both statements. -/

namespace Sys2Proof.Machine

open Sys2Proof.Safety

/-- A `MemRead` at the keyboard-status address that gets a byte (rule R53). -/
theorem memRead_byte {s : State} {b : Byte} (h : s.nextInput.1 = some (.byte b)) :
    memRead params.kbsrAddr s = .done (.ok (statusWord b)) (keyboardUpdate b (s.withInput s.nextInput.2)) := by
  rw [memRead_eq, if_pos rfl, h]
  simp only [keyboardUpdate_status, statusWord]

/-- A `MemRead` at the keyboard-status address that fails (rule R55). -/
theorem memRead_fail {s : State} {c : Cause} (h : s.nextInput.1 = some (.fail c)) :
    memRead params.kbsrAddr s = .done (.error c) (s.withInput s.nextInput.2) := by
  rw [memRead_eq, if_pos rfl, h]

/-- BR's test reads nothing but COND (rule R141). -/
theorem branchTaken_congr {s u : State} (h : u.cond = s.cond) (n z p : Bool) :
    branchTaken n z p u = branchTaken n z p s := by
  rw [branchTaken, branchTaken, h]

/-- `u` has come from `u₀` as `s` has from `s₀`: the same bytes were added to what each had emitted, their words of COND
are related by `ρ`, and in everything else they are equal. -/
def Alike (ρ : Word → Word → Prop) (s₀ u₀ s u : State) : Prop :=
  ∃ c ds es, ρ s.cond c ∧ s.output = s₀.output ++ ds ∧ s.echo = s₀.echo ++ es ∧
    u = ((s.withCond c).withOutput (u₀.output ++ ds)).withEcho (u₀.echo ++ es)

/-- Where the first operation answers, the second answers the same, in states that are alike. -/
def ResAlike (ρ : Word → Word → Prop) (s₀ u₀ : State) {α : Type} (r r' : Res α) : Prop :=
  ∀ e t, r = .done e t → ∃ v, r' = .done e v ∧ Alike ρ s₀ u₀ t v

/-- The writes end the same, in states that are alike. -/
def WritesAlike (ρ : Word → Word → Prop) (s₀ u₀ : State) (p p' : Option Cause × State) : Prop :=
  ∃ f t v, p = (f, t) ∧ p' = (f, v) ∧ Alike ρ s₀ u₀ t v

/-- Where the first step has a next state, the second has one, and they are alike. -/
def OutcomeAlike (ρ : Word → Word → Prop) (s₀ u₀ : State) (o o' : Outcome) : Prop :=
  ∀ t, o = .next t → ∃ v, o' = .next v ∧ Alike ρ s₀ u₀ t v

section
variable {ρ : Word → Word → Prop} {s₀ u₀ s u : State}

theorem OutcomeAlike.next (h : Alike ρ s₀ u₀ s u) : OutcomeAlike ρ s₀ u₀ (.next s) (.next u) := by
  intro t e
  obtain rfl := Host.Outcome.next.inj e
  exact ⟨u, rfl, h⟩

namespace Alike

theorem refl (hρ : ρ s₀.cond s₀.cond) (out echo : List Byte) :
    Alike ρ s₀ ((s₀.withOutput out).withEcho echo) s₀ ((s₀.withOutput out).withEcho echo) :=
  ⟨s₀.cond, [], [], hρ, by simp, by simp, by simp [State.withOutput, State.withEcho, State.withCond]⟩

theorem reg (h : Alike ρ s₀ u₀ s u) (r : Reg) : u.reg r = s.reg r := by
  obtain ⟨c, ds, es, -, -, -, rfl⟩ := h
  rfl

theorem pc (h : Alike ρ s₀ u₀ s u) : u.pc = s.pc := by
  obtain ⟨c, ds, es, -, -, -, rfl⟩ := h
  rfl

theorem memAt (h : Alike ρ s₀ u₀ s u) (a : Word) : u.memAt a = s.memAt a := by
  obtain ⟨c, ds, es, -, -, -, rfl⟩ := h
  rfl

theorem run (h : Alike ρ s₀ u₀ s u) : u.run = s.run := by
  obtain ⟨c, ds, es, -, -, -, rfl⟩ := h
  rfl

theorem job (h : Alike ρ s₀ u₀ s u) : u.job = s.job := by
  obtain ⟨c, ds, es, -, -, -, rfl⟩ := h
  rfl

theorem nextInput (h : Alike ρ s₀ u₀ s u) : u.nextInput = s.nextInput := by
  obtain ⟨c, ds, es, -, -, -, rfl⟩ := h
  rfl

theorem nextOut (h : Alike ρ s₀ u₀ s u) : u.nextOut = s.nextOut := by
  obtain ⟨c, ds, es, -, -, -, rfl⟩ := h
  rfl

theorem nextEcho (h : Alike ρ s₀ u₀ s u) : u.nextEcho = s.nextEcho := by
  obtain ⟨c, ds, es, -, -, -, rfl⟩ := h
  rfl

/-- Where the relation of the words of COND is equality. -/
theorem cond (h : Alike ρ s₀ u₀ s u) (hρ : ∀ c d, ρ c d → c = d) : u.cond = s.cond := by
  obtain ⟨c, ds, es, hc, -, -, rfl⟩ := h
  exact (hρ _ _ hc).symm

theorem withPc (h : Alike ρ s₀ u₀ s u) (v : Word) : Alike ρ s₀ u₀ (s.withPc v) (u.withPc v) := by
  obtain ⟨c, ds, es, hc, ho, he, rfl⟩ := h
  exact ⟨c, ds, es, hc, ho, he, rfl⟩

theorem withJob (h : Alike ρ s₀ u₀ s u) (v : Option StringJob) : Alike ρ s₀ u₀ (s.withJob v) (u.withJob v) := by
  obtain ⟨c, ds, es, hc, ho, he, rfl⟩ := h
  exact ⟨c, ds, es, hc, ho, he, rfl⟩

theorem withInput (h : Alike ρ s₀ u₀ s u) (q : Supply (Option InAnswer)) :
    Alike ρ s₀ u₀ (s.withInput q) (u.withInput q) := by
  obtain ⟨c, ds, es, hc, ho, he, rfl⟩ := h
  exact ⟨c, ds, es, hc, ho, he, rfl⟩

theorem memWrite (h : Alike ρ s₀ u₀ s u) (a v : Word) : Alike ρ s₀ u₀ (memWrite a v s) (memWrite a v u) := by
  obtain ⟨c, ds, es, hc, ho, he, rfl⟩ := h
  exact ⟨c, ds, es, hc, ho, he, rfl⟩

theorem raise (h : Alike ρ s₀ u₀ s u) (f : Fault) : Alike ρ s₀ u₀ (raise f s) (raise f u) := by
  obtain ⟨c, ds, es, hc, ho, he, rfl⟩ := h
  exact ⟨c, ds, es, hc, ho, he, rfl⟩

theorem halt (h : Alike ρ s₀ u₀ s u) : Alike ρ s₀ u₀ (halt s) (halt u) := by
  obtain ⟨c, ds, es, hc, ho, he, rfl⟩ := h
  exact ⟨c, ds, es, hc, ho, he, rfl⟩

theorem link (h : Alike ρ s₀ u₀ s u) : Alike ρ s₀ u₀ (link s) (link u) := by
  obtain ⟨c, ds, es, hc, ho, he, rfl⟩ := h
  exact ⟨c, ds, es, hc, ho, he, rfl⟩

theorem keyboardUpdate (h : Alike ρ s₀ u₀ s u) (b : Byte) :
    Alike ρ s₀ u₀ (keyboardUpdate b s) (keyboardUpdate b u) := by
  unfold Machine.keyboardUpdate
  split
  · split
    · exact h.memWrite _ _
    · exact (h.memWrite _ _).memWrite _ _
  · exact (h.memWrite _ _).memWrite _ _

theorem writeResult (hρ : ∀ w, ρ w w) (h : Alike ρ s₀ u₀ s u) (r : Reg) (v : Word) :
    Alike ρ s₀ u₀ (writeResult r v s) (writeResult r v u) := by
  obtain ⟨c, ds, es, -, ho, he, rfl⟩ := h
  exact ⟨_, ds, es, hρ _, ho, he, rfl⟩

theorem inByte (h : Alike ρ s₀ u₀ s u) : ResAlike ρ s₀ u₀ (inByte s) (inByte u) := by
  intro e t ht
  rw [inByte_eq] at ht ⊢
  rw [h.nextInput]
  match s.nextInput.1, ht with
  | some a, ht =>
    obtain ⟨rfl, rfl⟩ := Res.done.inj ht
    exact ⟨_, rfl, h.withInput _⟩

theorem memRead (h : Alike ρ s₀ u₀ s u) (a : Word) : ResAlike ρ s₀ u₀ (memRead a s) (memRead a u) := by
  intro e t ht
  match e, ht with
  | .ok w, ht =>
    obtain ⟨ha, rfl, rfl⟩ | ⟨rfl, b, hb, rfl, rfl⟩ := memRead_ok ht
    · exact ⟨u, by rw [memRead_plain u ha, h.memAt], h⟩
    · exact ⟨_, memRead_byte (by rwa [h.nextInput]), by rw [h.nextInput]; exact (h.withInput _).keyboardUpdate b⟩
  | .error c, ht =>
    obtain ⟨rfl, hc, rfl⟩ := memRead_error ht
    exact ⟨_, memRead_fail (by rwa [h.nextInput]), by rw [h.nextInput]; exact h.withInput _⟩

theorem outByte (h : Alike ρ s₀ u₀ s u) (b : Byte) : WritesAlike ρ s₀ u₀ (outByte b s) (outByte b u) := by
  rw [outByte_eq, outByte_eq, h.nextOut]
  obtain ⟨c, ds, es, hc, ho, he, rfl⟩ := h
  match s.nextOut.1 with
  | .ok =>
    refine ⟨none, _, _, rfl, rfl, c, ds ++ [b], es, hc, ?_, he, ?_⟩
    · simp [ho]
    · simp [State.withOutput, State.withEcho, State.withCond, State.withOutAnswers]
  | .fail f => exact ⟨some f, _, _, rfl, rfl, c, ds, es, hc, ho, he, rfl⟩

theorem echoByte (h : Alike ρ s₀ u₀ s u) (b : Byte) : WritesAlike ρ s₀ u₀ (echoByte b s) (echoByte b u) := by
  rw [echoByte_eq, echoByte_eq, h.nextEcho]
  obtain ⟨c, ds, es, hc, ho, he, rfl⟩ := h
  match s.nextEcho.1 with
  | .ok =>
    refine ⟨none, _, _, rfl, rfl, c, ds, es ++ [b], hc, ho, ?_, ?_⟩
    · simp [he]
    · simp [State.withOutput, State.withEcho, State.withCond, State.withEchoAnswers]
  | .fail f => exact ⟨some f, _, _, rfl, rfl, c, ds, es, hc, ho, he, rfl⟩

theorem outBytes (h : Alike ρ s₀ u₀ s u) (bs : List Byte) : WritesAlike ρ s₀ u₀ (outBytes bs s) (outBytes bs u) := by
  induction bs generalizing s u with
  | nil => exact ⟨none, s, u, rfl, rfl, h⟩
  | cons b bs ih =>
    obtain ⟨f, t, v, es, eu, h⟩ := h.outByte b
    simp only [Machine.outBytes, es, eu]
    match f with
    | none => exact ih h
    | some c => exact ⟨some c, t, v, rfl, rfl, h⟩

end Alike

theorem WritesAlike.afterWrites {p p' : Option Cause × State} (h : WritesAlike ρ s₀ u₀ p p') {k : State → State}
    (hk : ∀ {t v}, Alike ρ s₀ u₀ t v → Alike ρ s₀ u₀ (k t) (k v)) :
    Alike ρ s₀ u₀ (afterWrites p k) (afterWrites p' k) := by
  obtain ⟨f, t, v, rfl, rfl, h⟩ := h
  match f with
  | none => exact hk h
  | some c => exact h.raise (.ioFailure c)

theorem ResAlike.finish {α : Type} {r r' : Res α} (h : ResAlike ρ s₀ u₀ r r') {k k' : α → State → State}
    (hk : ∀ {a t v}, Alike ρ s₀ u₀ t v → Alike ρ s₀ u₀ (k a t) (k' a v)) :
    OutcomeAlike ρ s₀ u₀ (r.finish k) (r'.finish k') := by
  intro t ht
  obtain ⟨a, s, hr, rfl⟩ | ⟨c, s, hr, rfl⟩ := Res.finish_next ht
  · obtain ⟨v, rfl, hv⟩ := h _ _ hr
    exact ⟨_, rfl, hk hv⟩
  · obtain ⟨v, rfl, hv⟩ := h _ _ hr
    exact ⟨_, rfl, hv.raise _⟩

theorem ResAlike.andThen {α : Type} {r r' : Res α} (h : ResAlike ρ s₀ u₀ r r') {k : α → State → Outcome}
    (hk : ∀ {a t v}, Alike ρ s₀ u₀ t v → OutcomeAlike ρ s₀ u₀ (k a t) (k a v)) :
    OutcomeAlike ρ s₀ u₀ (r.andThen k) (r'.andThen k) := by
  intro t ht
  obtain ⟨a, s, hr, hx⟩ | ⟨c, s, hr, rfl⟩ := Res.andThen_next ht
  · obtain ⟨v, rfl, hv⟩ := h _ _ hr
    exact hk hv t hx
  · obtain ⟨v, rfl, hv⟩ := h _ _ hr
    exact ⟨_, rfl, hv.raise _⟩

theorem stringWord_alike (h : Alike ρ s₀ u₀ s u) (j : StringJob) (w : Word) :
    Alike ρ s₀ u₀ (stringWord j w s) (stringWord j w u) := by
  unfold stringWord
  split
  · exact h.withJob _
  · exact (h.outBytes _).afterWrites fun h => h.withJob _

variable (hρ : ∀ w, ρ w w)
include hρ

theorem load_alike (h : Alike ρ s₀ u₀ s u) (dr : Reg) (a : Word) : OutcomeAlike ρ s₀ u₀ (load dr a s) (load dr a u) :=
  (h.memRead a).finish fun h => h.writeResult hρ dr _

theorem storeByte_alike (h : Alike ρ s₀ u₀ s u) (b : Byte) : Alike ρ s₀ u₀ (storeByte b s) (storeByte b u) :=
  h.writeResult hρ .r0 _

theorem serviceIn_alike (h : Alike ρ s₀ u₀ s u) : OutcomeAlike ρ s₀ u₀ (serviceIn s) (serviceIn u) := by
  rw [serviceIn, serviceIn, serviceInWith_in_order, serviceInWith_in_order]
  obtain ⟨f, t, v, es, eu, h⟩ := h.outBytes params.inPrompt
  rw [es, eu]
  match f with
  | some c => exact .next (h.raise (.ioFailure c))
  | none => exact h.inByte.finish fun h => (h.echoByte _).afterWrites fun h => storeByte_alike hρ h _

theorem exec_row_alike {i : Instr} (hi : ∀ v, i ≠ .trap v) (hbr : isBranch i = false ∨ ∀ c d, ρ c d → c = d)
    (h : Alike ρ s₀ u₀ s u) : OutcomeAlike ρ s₀ u₀ (exec i s) (exec i u) := by
  cases i with
  | addReg | addImm | andReg | andImm | not =>
    refine .next ?_
    simp only [regOperand, h.reg]
    exact h.writeResult hρ _ _
  | lea =>
    refine .next ?_
    simp only [pcRelative, h.pc]
    exact h.writeResult hρ _ _
  | br n z p off =>
    refine .next ?_
    rw [branchTaken_congr (h.cond (hbr.resolve_left (by simp [isBranch])))]
    split
    · simp only [pcRelative, h.pc]
      exact h.withPc _
    · exact h
  | jmp base =>
    refine .next ?_
    rw [h.reg]
    exact h.withPc _
  | jsr | jsrr =>
    refine .next ?_
    simp only [pcRelative, h.link.pc, h.link.reg]
    exact h.link.withPc _
  | ld dr off =>
    show OutcomeAlike ρ s₀ u₀ (load dr (s.pc + _) s) (load dr (u.pc + _) u)
    rw [h.pc]
    exact load_alike hρ h _ _
  | ldr dr base off =>
    show OutcomeAlike ρ s₀ u₀ (load dr (s.reg base + _) s) (load dr (u.reg base + _) u)
    rw [h.reg]
    exact load_alike hρ h _ _
  | ldi dr off =>
    show OutcomeAlike ρ s₀ u₀ ((memRead (s.pc + _) s).andThen _) ((memRead (u.pc + _) u).andThen _)
    rw [h.pc]
    exact (h.memRead _).andThen fun h => load_alike hρ h _ _
  | st | str =>
    refine .next ?_
    simp only [pcRelative, baseOffset, h.pc, h.reg]
    exact h.memWrite _ _
  | sti sr off =>
    show OutcomeAlike ρ s₀ u₀ ((memRead (s.pc + _) s).finish _) ((memRead (u.pc + _) u).finish _)
    rw [h.pc]
    refine (h.memRead _).finish fun h => ?_
    rw [h.reg]
    exact h.memWrite _ _
  | trap v => exact absurd rfl (hi v)
  | trapGetc => exact h.link.inByte.finish fun h => storeByte_alike hρ h _
  | trapOut =>
    refine .next ?_
    simp only [trapEntry, h.link.reg]
    exact (h.link.outByte _).afterWrites id
  | trapPuts | trapPutsp =>
    refine .next ?_
    simp only [trapEntry, h.link.reg]
    exact h.link.withJob _
  | trapIn => exact serviceIn_alike hρ h.link
  | trapHalt => exact .next h.link.halt
  | trapOther => exact .next (h.link.raise _)
  | rti | reserved => exact .next (h.raise _)

/-- An instruction does the same in states that are alike; BR needs the same COND in both. -/
theorem exec_alike {i : Instr} (hbr : isBranch i = false ∨ ∀ c d, ρ c d → c = d)
    (h : Alike ρ s₀ u₀ s u) : OutcomeAlike ρ s₀ u₀ (exec i s) (exec i u) := by
  cases i with
  | trap v =>
    obtain ⟨-, -, -, hbranch, -⟩ := trapRow_traits v
    rw [execTrap_eq_row, execTrap_eq_row]
    exact exec_row_alike hρ (trapRow_wellFormed v).2 (.inl hbranch) h
  | _ => exact exec_row_alike hρ (by simp) hbr h

end

/-- A step does the same in states that differ only in what was emitted. -/
theorem step_alike {s₀ u₀ s u : State} (h : Alike (· = ·) s₀ u₀ s u) : OutcomeAlike (· = ·) s₀ u₀ (step s) (step u) := by
  intro t ht
  have hs := step_next_running ht
  have hu : u.run = .running := h.run.trans hs
  match hj : s.job with
  | none =>
    rw [step_fetches hs hj] at ht
    rw [step_fetches hu (h.job.trans hj), h.pc]
    refine (h.memRead s.pc).andThen (fun {_ v w} h => ?_) t ht
    have hadv : Alike (· = ·) s₀ u₀ (advance v) (advance w) := by
      simp only [advance, h.pc]
      exact h.withPc _
    exact exec_alike (fun _ => rfl) (.inr fun _ _ => id) hadv
  | some j =>
    rw [step_string hs hj] at ht
    rw [step_string hu (h.job.trans hj)]
    exact (h.memRead j.cursor).finish (fun {w _ _} h => stringWord_alike h j w) t ht

end Sys2Proof.Machine

namespace Sys2Proof.Proofs

open Sys2Proof.Machine Sys2Proof.Safety

/-- Settles O26: the two runs stay alike, whatever the two words of COND. -/
theorem onlyBranchesReadCond : Obligations.OnlyBranchesReadCond := by
  intro i s t c hi ht
  have h : Alike (fun _ _ => True) s (s.withCond c) s (s.withCond c) :=
    ⟨c, [], [], trivial, by simp, by simp, by simp [State.withOutput, State.withEcho, State.withCond]⟩
  obtain ⟨u, hu, d, ds, es, -, ho, he, rfl⟩ := exec_alike (fun _ => trivial) (.inl hi) h t ht
  refine ⟨_, hu, ?_⟩
  rw [State.withCond_output, State.withCond_echo, ← ho, ← he]
  rfl

/-- Settles O30: the two runs add the same bytes and stay alike. -/
theorem emittedBytesAreNeverReadBack : Obligations.EmittedBytesAreNeverReadBack := by
  intro s t ht
  have hsame (out echo : List Byte) := step_alike (Alike.refl (ρ := (· = ·)) rfl out echo) t ht
  obtain ⟨-, -, -, ds, es, -, ho, he, -⟩ := hsame [] []
  refine ⟨ds, es, ho, he, fun out echo => ?_⟩
  obtain ⟨u, hu, c, ds', es', rfl, ho', he', rfl⟩ := hsame out echo
  obtain rfl : ds' = ds := List.append_cancel_left (ho'.symm.trans ho)
  obtain rfl : es' = es := List.append_cancel_left (he'.symm.trans he)
  exact hu

end Sys2Proof.Proofs

/-! PROOFS. Memory and the keyboard device (rules R51 to R57, R67): what `MemRead` and `MemWrite` leave, and which
instructions change memory. -/

namespace Sys2Proof.Machine

open Sys2Proof.Safety

/-- A `MemRead` at the keyboard-status address whose request is never answered (rule R222). -/
theorem memRead_blocked {s : State} (h : s.nextInput.1 = none) : memRead params.kbsrAddr s = .blocked := by
  rw [memRead_eq, if_pos rfl, h]

/-- The data word after the device's update, for every byte and on either reading of `KBDR_ON_ZERO` (rules R53, R54). -/
theorem keyboardUpdate_dataWord (b : Byte) (s : State) :
    (keyboardUpdate b s).memAt params.kbdrAddr = dataWord b (s.memAt params.kbdrAddr) := by
  by_cases hb : b = 0
  · subst hb
    exact (keyboardUpdate_data_zero s).trans (if_pos rfl).symm
  · rw [keyboardUpdate_data s hb, dataWord, if_neg hb, zext8]

/-- The device's update changes no word of memory but its two. -/
theorem keyboardUpdate_memKeptBut (b : Byte) (s : State) :
    MemKeptBut [params.kbsrAddr, params.kbdrAddr] s (keyboardUpdate b s) :=
  fun _ hn => keyboardUpdate_read_other b s (hn _ (by simp)) (hn _ (by simp))

/-- The device's update does to memory what rules R53 and R54 say, and no more. -/
theorem keyboardUpdate_updated (b : Byte) (s : State) : KeyboardUpdated b s (keyboardUpdate b s) :=
  ⟨⟨keyboardUpdate_status b s, keyboardUpdate_dataWord b s⟩, keyboardUpdate_memKeptBut b s⟩

/-- An answer taken is seen in the input stream: it counts one. -/
theorem nextInput_ne_input (s : State) : s.nextInput.2 ≠ s.input := fun e => by
  have hdrawn : s.nextInput.2.drawn = s.input.drawn + 1 := Supply.draw_drawn _ _
  rw [e] at hdrawn
  omega

/-- Reads and writes of the devices change at most the two keyboard words. -/
theorem IoOnly.memKeptBut {s u : State} (h : IoOnly s u) : MemKeptBut [params.kbsrAddr, params.kbdrAddr] s u := by
  intro n hn
  obtain ⟨-, hm⟩ | ⟨-, hm | ⟨b, hm⟩⟩ := h.device
  · rw [hm]
  · rw [hm]
  · rw [hm]
    exact keyboardUpdate_memKeptBut b s n hn

/-- Reads and writes of the devices that take no input answer leave memory alone. -/
theorem IoOnly.mem_of_input {s u : State} (h : IoOnly s u) (hin : u.input = s.input) : u.mem = s.mem := by
  obtain ⟨-, hm⟩ | ⟨htaken, -⟩ := h.device
  · exact hm
  · exact absurd (htaken.symm.trans hin) (nextInput_ne_input s)

/-- No ending of an instruction but a store changes memory, and none asks the input stream. -/
theorem Ends.mem_input {i : Instr} {u t : State} (h : Ends i u t) (hi : isStore i = false) :
    t.mem = u.mem ∧ t.input = u.input := by
  cases h with
  | stored _ hs => simp [hi] at hs
  | _ => exact ⟨rfl, rfl⟩

end Sys2Proof.Machine

namespace Sys2Proof.Proofs

open Sys2Proof.Machine Sys2Proof.Safety

/-- Settles O14, by the answers of the input stream: a byte, a failure, or none. -/
theorem memReadReadsAWordOrTheKeyboard : Obligations.MemReadReadsAWordOrTheKeyboard := by
  refine fun s a => ⟨memRead_plain s, ?_⟩
  rintro rfl
  refine ⟨fun b hb => ⟨_, memRead_byte hb, keyboardUpdate_updated b _, ?_⟩,
    fun c hc => ⟨_, memRead_fail hc, fun _ => rfl, fun _ _ => rfl, ⟨rfl, rfl⟩, ⟨rfl, rfl⟩, rfl, ⟨rfl, rfl⟩, ⟨rfl, rfl⟩⟩,
    memRead_blocked⟩
  have hio := IoOnly.keyboardRead b s
  exact ⟨fun r _ => hio.reg r, ⟨hio.pc, hio.cond⟩, ⟨hio.run, hio.job⟩, keyboardUpdate_input b _,
    ⟨keyboardUpdate_outAnswers b _, keyboardUpdate_output b _⟩, ⟨keyboardUpdate_echoAnswers b _, keyboardUpdate_echo b _⟩⟩

/-- Settles O27: an instruction that stores nothing ends with the memory its reads of the devices left. -/
theorem onlyStoresAndTheKeyboardChangeMemory : Obligations.OnlyStoresAndTheKeyboardChangeMemory := by
  intro i s t hi h
  obtain ⟨u, hu, he⟩ := exec_ends h
  obtain ⟨hmem, hin⟩ := he.mem_input hi
  refine ⟨fun n hn => ?_, fun htin n => ?_⟩
  · rw [hmem, hu.memKeptBut n hn, opening_mem]
  · rw [hmem, hu.mem_of_input (by rw [← hin, htin, opening_input]), opening_mem]

/-- Settles O12: a read after the write of the same and of another address, and the fields a write leaves. -/
theorem memWriteIsAPlainStore : Obligations.MemWriteIsAPlainStore := by
  intro s a v
  have hothers : MemKeptBut [a] s (memWrite a v s) := fun _ hn => Memory.read_write_other s.mem v (hn a (by simp))
  exact ⟨memWrite_memAt_same s a v, hothers, fun _ _ => rfl, ⟨rfl, rfl⟩, ⟨rfl, rfl⟩, rfl, ⟨rfl, rfl⟩, ⟨rfl, rfl⟩⟩

/-- Settles O13, from O17: the step runs the decoding of the word at the PC, and that is the word stored. -/
theorem aStoreIsSeenByTheNextFetch : Obligations.AStoreIsSeenByTheNextFetch := by
  intro s v hrun hjob hpc
  have hstep := aStepRunsTheDecodedInstruction (memWrite s.pc v s) hrun hjob hpc
  rwa [memWrite_pc, memWrite_memAt_same] at hstep

end Sys2Proof.Proofs

/-! PROOFS. The decoder against the encoder (rules R83 to R91): a field of a word that fields were placed in, the bits of a
word that its fields keep, and the bits in no field. -/

namespace Sys2Proof

open Machine Sys2Proof.Safety

/-! What a field reads of a word made of placed fields. -/

/-- A field reads back what was placed in it. -/
theorem extract_place {n pos : Nat} (f : BitVec n) (h : pos + n ≤ 16) : (place pos f).extractLsb' pos n = f := by
  apply BitVec.eq_of_getLsbD_eq
  intro i hi
  have h16 : pos + i < 16 := by omega
  rw [BitVec.getLsbD_extractLsb', getLsbD_place]
  simp [hi, h16]

/-- Outside its place a placed field has no bit. -/
theorem getLsbD_place_apart {n pos i : Nat} (f : BitVec n) (h : i < pos ∨ pos + n ≤ i) :
    (place pos f).getLsbD i = false := by
  rw [getLsbD_place]
  obtain hbelow | habove := h
  · simp [hbelow]
  · simp [BitVec.getLsbD_of_ge f (i - pos) (by omega)]

/-- A field reads zero of a field placed elsewhere. -/
theorem extract_place_apart {n pos lo len : Nat} (f : BitVec n) (h : lo + len ≤ pos ∨ pos + n ≤ lo) :
    (place pos f).extractLsb' lo len = 0#len := by
  apply BitVec.eq_of_getLsbD_eq
  intro i hi
  rw [BitVec.getLsbD_extractLsb', getLsbD_place_apart f (by omega), Bool.and_false, BitVec.getLsbD_zero]

theorem getLsbD_place_ofBool {pos : Nat} (b : Bool) (h : pos < 16) : (place pos (BitVec.ofBool b)).getLsbD pos = b := by
  rw [getLsbD_place]
  simp [h]

/-- The ones that NOT carries in its low bits are a field of their own to the places above (rule R87). -/
theorem notOnes_eq_place : (0x003F : Word) = place 0 (0x3F : BitVec 6) := rfl

/-- The canonical word of a TRAP decodes to the row of its vector (rules R88, R170). -/
theorem decode_encode_trap (v : BitVec 8) : decode (encode (.trap v)) = trapRow v := by
  simp (disch := decide) only [decode, encode, opField, immField, placeOp, placeImm, BitVec.extractLsb'_or, extract_place,
    extract_place_apart, BitVec.or_zero, BitVec.zero_or, opcodeOf_opcode]

/-- The six services and the vectors with no handler go through the second dispatch; of every other row each field reads
back its operand, since the fields of a row lie apart. -/
theorem decode_encode {i : Instr} (hwf : i.wellFormed = true) (hi : ∀ v, i ≠ .trap v) : decode (encode i) = i := by
  cases i
  case trap v => exact absurd rfl (hi v)
  case trapOther v =>
    have hv : serviceOf v = none := by simpa [Instr.wellFormed] using hwf
    exact (decode_encode_trap v).trans (by simp only [trapRow, hv])
  case trapGetc | trapOut | trapPuts | trapIn | trapPutsp | trapHalt =>
    exact (decode_encode_trap _).trans (by simp only [trapRow, serviceOf_vector])
  all_goals
    simp (disch := decide) only [decode, encode, opField, drField, sr1Field, sr2Field, immField, placeOp, placeDr, placeSr1,
      placeSr2, placeImm, placeBit, notOnes_eq_place, BitVec.extractLsb'_or, extract_place, extract_place_apart,
      BitVec.getLsbD_or, getLsbD_place_ofBool, getLsbD_place_apart, BitVec.or_zero, BitVec.zero_or, Bool.or_false,
      Bool.false_or, opcodeOf_opcode, regOfBits_regBits, if_true, Bool.false_eq_true, if_false]

/-! The bits in no field. -/

theorem opField_of_opcodeOf {w : Word} {o : Opcode} (h : opcodeOf (opField w) = o) : opField w = params.opcode o := by
  rw [← h, opcode_opcodeOf]

/-- The bits in no field, by the opcode and the two mode bits (rule R89). -/
def noField (o : Opcode) (mode jsrMode : Bool) : Word :=
  match o with
  | .add | .and => if mode then 0x0000 else 0x0018
  | .not => 0x003F
  | .jmp => 0x0E3F
  | .jsr => if jsrMode then 0x0000 else 0x063F
  | .trap => 0x0F00
  | .rti | .reserved => 0x0FFF
  | .br | .ld | .st | .ldr | .str | .ldi | .sti | .lea => 0x0000

theorem ignoredBits_eq_noField {w : Word} {o : Opcode} (h : opcodeOf (opField w) = o) :
    ignoredBits w = noField o (w.getLsbD params.posMode) (w.getLsbD params.posJsrMode) := by
  have hop : opAt w = params.opcode o := opField_of_opcodeOf h
  rw [ignoredBits, hop]
  cases o <;> rfl

theorem extract_noField_opcode (o : Opcode) (mode jsrMode : Bool) : (noField o mode jsrMode).extractLsb' 12 4 = 0#4 := by
  cases o <;> cases mode <;> cases jsrMode <;> decide

/-- A field that no flipped bit lies in reads as before. -/
theorem extract_flip {g : Word} {lo len : Nat} (w x : Word) (h : g.extractLsb' lo len = 0#len) :
    (w ^^^ (x &&& g)).extractLsb' lo len = w.extractLsb' lo len := by
  rw [BitVec.extractLsb'_xor, BitVec.extractLsb'_and, h, BitVec.and_zero, BitVec.xor_zero]

theorem getLsbD_flip {g : Word} {i : Nat} (w x : Word) (h : g.getLsbD i = false) :
    (w ^^^ (x &&& g)).getLsbD i = w.getLsbD i := by
  rw [BitVec.getLsbD_xor, BitVec.getLsbD_and, h, Bool.and_false, Bool.xor_false]

theorem opField_flip (w x : Word) : opField (w ^^^ (x &&& ignoredBits w)) = opField w := by
  rw [ignoredBits_eq_noField rfl]
  exact extract_flip w x (extract_noField_opcode ..)

/-- No field of a row has a bit that rule R89 lists for it. -/
theorem decode_flip (w x : Word) : decode (w ^^^ (x &&& ignoredBits w)) = decode w := by
  obtain ⟨o, hop⟩ : ∃ o, opcodeOf (opField w) = o := ⟨_, rfl⟩
  have hflip : opcodeOf (opField (w ^^^ (x &&& ignoredBits w))) = o := by rw [opField_flip, hop]
  rw [ignoredBits_eq_noField hop] at hflip ⊢
  unfold decode
  rw [hflip, hop]
  cases o
  case add | and =>
    cases hmode : w.getLsbD params.posMode <;>
      simp (disch := decide) only [noField, if_true, Bool.false_eq_true, if_false, getLsbD_flip, hmode, drField, sr1Field,
        sr2Field, immField, extract_flip]
  case jsr =>
    cases hmode : w.getLsbD params.posJsrMode <;>
      simp (disch := decide) only [noField, if_true, Bool.false_eq_true, if_false, getLsbD_flip, hmode, sr1Field, immField,
        extract_flip]
  all_goals simp (disch := decide) only [noField, getLsbD_flip, drField, sr1Field, immField, extract_flip]

/-! What a word is made of. -/

/-- Placing a field back where it was read gives the word's own bits there. -/
theorem place_extract (pos n : Nat) (w : Word) : place pos (w.extractLsb' pos n) = w &&& place pos (BitVec.allOnes n) := by
  apply BitVec.eq_of_getLsbD_eq
  intro i hi
  rw [BitVec.getLsbD_and, getLsbD_place, getLsbD_place, BitVec.getLsbD_extractLsb', BitVec.getLsbD_allOnes]
  by_cases hpos : pos ≤ i
  · simp [hi, Nat.not_lt.mpr hpos, Nat.add_sub_cancel' hpos, Bool.and_comm]
  · simp [Nat.lt_of_not_le hpos]

theorem placeBit_getLsbD (pos : Nat) (w : Word) : placeBit pos (w.getLsbD pos) = w &&& place pos (BitVec.allOnes 1) := by
  have hbit : BitVec.ofBool (w.getLsbD pos) = w.extractLsb' pos 1 := by
    apply BitVec.eq_of_getLsbD_eq
    intro i hi
    obtain rfl : i = 0 := by omega
    simp
  rw [placeBit, hbit, place_extract]

theorem placeOp_opcodeOf (w : Word) : placeOp (opcodeOf (opField w)) = w &&& place 12 (BitVec.allOnes 4) := by
  rw [placeOp, opcode_opcodeOf, opField, place_extract]

theorem placeDr_drField (w : Word) : placeDr (drField w) = w &&& place params.posDR (BitVec.allOnes 3) := by
  rw [placeDr, drField, regBits_regOfBits, place_extract]

theorem placeSr1_sr1Field (w : Word) : placeSr1 (sr1Field w) = w &&& place params.posSR1 (BitVec.allOnes 3) := by
  rw [placeSr1, sr1Field, regBits_regOfBits, place_extract]

theorem placeSr2_sr2Field (w : Word) : placeSr2 (sr2Field w) = w &&& place params.posSR2 (BitVec.allOnes 3) := by
  rw [placeSr2, sr2Field, regBits_regOfBits, place_extract]

theorem placeImm_immField (n : Nat) (w : Word) :
    placeImm (immField n w) = w &&& place params.posImm (BitVec.allOnes n) := place_extract ..

/-- The row that the second dispatch answers has the generic row's word. -/
theorem encode_trapRow (v : BitVec 8) : encode (trapRow v) = encode (.trap v) := by
  unfold trapRow
  split <;> rename_i h
  case h_7 => rfl
  all_goals rw [← vector_of_serviceOf h]; rfl

/-- Two words agree outside `g` if one has the other's bits under a mask, the other has none under a second mask, and
the two masks leave no bit outside `g` free. -/
theorem masked_xor_and {w m z g : Word} (hz : w &&& z = 0#16) (h : ~~~(m ||| z) &&& ~~~g = 0#16) :
    ((w &&& m) ^^^ w) &&& ~~~g = 0#16 := by
  apply BitVec.eq_of_getLsbD_eq
  intro i hi
  have hz := congrArg (BitVec.getLsbD · i) hz
  have h := congrArg (BitVec.getLsbD · i) h
  simp only [BitVec.getLsbD_and, BitVec.getLsbD_xor, BitVec.getLsbD_or, BitVec.getLsbD_not, BitVec.getLsbD_zero, hi,
    decide_true, Bool.true_and] at hz h ⊢
  revert hz h
  cases w.getLsbD i <;> cases m.getLsbD i <;> cases z.getLsbD i <;> simp

/-- Bits added outside a mask change nothing under it. -/
theorem or_xor_and {c k : Word} (e w : Word) (h : c &&& k = 0#16) : ((e ||| c) ^^^ w) &&& k = (e ^^^ w) &&& k := by
  apply BitVec.eq_of_getLsbD_eq
  intro i hi
  have hc := congrArg (BitVec.getLsbD · i) h
  simp only [BitVec.getLsbD_and, BitVec.getLsbD_zero, BitVec.getLsbD_xor, BitVec.getLsbD_or] at hc ⊢
  revert hc
  cases c.getLsbD i <;> cases k.getLsbD i <;> simp

/-- Every row's fields, placed back, are the word's own bits; a mode bit that the row leaves clear is clear in the word, and
the fields with the mode bit cover the bits that rule R89 does not list. -/
theorem encode_decode (w : Word) : (encode (decode w) ^^^ w) &&& ~~~(ignoredBits w) = 0#16 := by
  have hplace := placeOp_opcodeOf w
  obtain ⟨o, hop⟩ : ∃ o, opcodeOf (opField w) = o := ⟨_, rfl⟩
  rw [hop] at hplace
  have hmode := placeBit_getLsbD params.posMode w
  have hjsr := placeBit_getLsbD params.posJsrMode w
  rw [ignoredBits_eq_noField hop]
  unfold decode
  rw [hop]
  cases o
  case add | and =>
    cases hm : w.getLsbD params.posMode <;> rw [hm] at hmode
    · simp only [noField, Bool.false_eq_true, if_false, encode, hplace, placeDr_drField, placeSr1_sr1Field, placeSr2_sr2Field,
        ← BitVec.and_or_distrib_left]
      exact masked_xor_and hmode.symm (by decide)
    · simp only [noField, if_true, encode, hplace, hmode, placeDr_drField, placeSr1_sr1Field, placeImm_immField,
        ← BitVec.and_or_distrib_left]
      exact masked_xor_and BitVec.and_zero (by decide)
  case jsr =>
    cases hm : w.getLsbD params.posJsrMode <;> rw [hm] at hjsr
    · simp only [noField, Bool.false_eq_true, if_false, encode, hplace, placeSr1_sr1Field, ← BitVec.and_or_distrib_left]
      exact masked_xor_and hjsr.symm (by decide)
    · simp only [noField, if_true, encode, hplace, hjsr, placeImm_immField, ← BitVec.and_or_distrib_left]
      exact masked_xor_and BitVec.and_zero (by decide)
  case trap =>
    dsimp only
    rw [encode_trapRow]
    simp only [noField, encode, hplace, placeImm_immField, ← BitVec.and_or_distrib_left]
    exact masked_xor_and BitVec.and_zero (by decide)
  case not =>
    simp only [noField, encode, hplace, placeDr_drField, placeSr1_sr1Field, ← BitVec.and_or_distrib_left]
    rw [or_xor_and _ _ (by decide)]
    exact masked_xor_and BitVec.and_zero (by decide)
  all_goals
    simp only [noField, encode, hplace, placeDr_drField, placeSr1_sr1Field, placeImm_immField, placeBit_getLsbD,
      ← BitVec.and_or_distrib_left]
    exact masked_xor_and BitVec.and_zero (by decide)

/-- The row of every opcode is well-formed, and TRAP's row is one that the second dispatch answers. -/
theorem decode_wellFormed (w : Word) : (decode w).wellFormed = true ∧ ∀ v, decode w ≠ .trap v := by
  unfold decode
  cases opcodeOf (opField w)
  case trap => exact trapRow_wellFormed _
  case add | and | jsr => dsimp only; split <;> exact ⟨rfl, fun _ e => by cases e⟩
  all_goals exact ⟨rfl, fun _ e => by cases e⟩

end Sys2Proof

namespace Sys2Proof.Proofs

open Sys2Proof.Machine

/-- Settles O3: each field reads back what was placed in it, and a TRAP's vector names its row. -/
theorem decodeOfEncodeIsTheInstruction : Obligations.DecodeOfEncodeIsTheInstruction := by
  refine fun i hwf => ⟨decode_encode hwf, ?_⟩
  rintro v rfl
  exact decode_encode_trap v

/-- Settles O4: the fields of a word, placed back, are the word's own bits, and cover all that are in a field. -/
theorem encodeOfDecodeKeepsEveryField : Obligations.EncodeOfDecodeKeepsEveryField := encode_decode

/-- Settles O5: no field has one of the flipped bits. -/
theorem bitsInNoFieldAreIgnored : Obligations.BitsInNoFieldAreIgnored := decode_flip

/-- Settles O6, by the opcode of the word. -/
theorem everyWordDecodesWellFormed : Obligations.EveryWordDecodesWellFormed := decode_wellFormed

/-- Settles O1: each word is decoded by evaluation. -/
theorem wordsOfTheSpecDecode : Obligations.WordsOfTheSpecDecode := by
  unfold Obligations.WordsOfTheSpecDecode
  decide

end Sys2Proof.Proofs

/-! PROOFS. The step of the execution loop (rules R112, R115, R117, R118, R222): where a step has a next state, the fetch
at the keyboard-status address, and the one instruction that halts. -/

namespace Sys2Proof.Machine

open Sys2Proof.Safety

/-- A step that runs from `s` has a next state, unless it waits for an input answer that never comes (rules R115, R222). -/
def CompletesOrWaits (s : State) (o : Outcome) : Prop :=
  (∃ t, o = .next t) ∨ (o = .refused .inputNeverAnswered ∧ s.nextInput.1 = none)

theorem CompletesOrWaits.next {s : State} (t : State) : CompletesOrWaits s (.next t) := .inl ⟨t, rfl⟩

theorem CompletesOrWaits.ne_fault {s : State} {o : Outcome} (h : CompletesOrWaits s o) (f : Fault) : o ≠ .fault f := by
  obtain ⟨t, rfl⟩ | ⟨rfl, -⟩ := h <;> simp

theorem nextInput_of_inByte_blocked {s : State} (h : inByte s = .blocked) : s.nextInput.1 = none := by
  rw [inByte_eq] at h
  match hin : s.nextInput.1, h with
  | none, _ => rfl

theorem nextInput_of_memRead_blocked {a : Word} {s : State} (h : memRead a s = .blocked) : s.nextInput.1 = none := by
  rw [memRead_eq] at h
  split at h
  · match hin : s.nextInput.1, h with
    | none, _ => rfl
  · simp at h

theorem Res.finish_completesOrWaits {α : Type} {s : State} {r : Res α} (hb : r = .blocked → s.nextInput.1 = none)
    (k : α → State → State) : CompletesOrWaits s (r.finish k) := by
  match r with
  | .done _ _ => exact .next _
  | .blocked => exact .inr ⟨rfl, hb rfl⟩

theorem Res.andThen_completesOrWaits {α : Type} {s : State} {r : Res α} {k : α → State → Outcome}
    (hb : r = .blocked → s.nextInput.1 = none) (hk : ∀ a u, r = .done (.ok a) u → CompletesOrWaits s (k a u)) :
    CompletesOrWaits s (r.andThen k) := by
  match r with
  | .done (.ok a) u => exact hk a u rfl
  | .done (.error _) _ => exact .next _
  | .blocked => exact .inr ⟨rfl, hb rfl⟩

theorem load_completesOrWaits (dr : Reg) (a : Word) (s : State) : CompletesOrWaits s (load dr a s) :=
  Res.finish_completesOrWaits nextInput_of_memRead_blocked _

/-- Only one of LDI's two reads asks the input stream: a pointer that is a status word names no device. -/
theorem execLdi_completesOrWaits (dr : Reg) (off : BitVec 9) (s : State) : CompletesOrWaits s (execLdi dr off s) := by
  refine Res.andThen_completesOrWaits nextInput_of_memRead_blocked fun p u hp => ?_
  obtain ⟨-, -, rfl⟩ | ⟨-, b, -, rfl, -⟩ := memRead_ok hp
  · exact load_completesOrWaits dr p u
  · rw [load, memRead_plain u (statusWord_ne_kbsrAddr b)]
    exact .next _

/-- IN asks after its prompt, which leaves the input stream alone (rule R178). -/
theorem serviceIn_completesOrWaits (s : State) : CompletesOrWaits s (serviceIn s) := by
  rw [serviceIn, serviceInWith_in_order]
  have hin := outBytes_nextInput params.inPrompt s
  match outBytes params.inPrompt s, hin with
  | (some _, _), _ => exact .next _
  | (none, v), hin =>
    refine Res.finish_completesOrWaits (fun hb => ?_) _
    rw [← hin]
    exact nextInput_of_inByte_blocked hb

theorem exec_row_completesOrWaits {i : Instr} (hi : ∀ v, i ≠ .trap v) (s : State) : CompletesOrWaits s (exec i s) := by
  cases i with
  | ld | ldr => exact load_completesOrWaits _ _ s
  | ldi dr off => exact execLdi_completesOrWaits dr off s
  | sti => exact Res.finish_completesOrWaits nextInput_of_memRead_blocked _
  | trap v => exact absurd rfl (hi v)
  | trapGetc => exact Res.finish_completesOrWaits (nextInput_of_inByte_blocked (s := link s)) _
  | trapIn => exact serviceIn_completesOrWaits (link s)
  | _ => exact .next _

/-- No instruction stops a step otherwise than by waiting for an input answer (rule R115). -/
theorem exec_completesOrWaits (i : Instr) (s : State) : CompletesOrWaits s (exec i s) := by
  cases i with
  | trap v =>
    rw [execTrap_eq_row]
    exact exec_row_completesOrWaits (trapRow_wellFormed v).2 s
  | _ => exact exec_row_completesOrWaits (by simp) s

/-- The status word's instruction asks for nothing, so it completes whatever the input stream does next. -/
theorem exec_statusWord_next (b : Byte) (s : State) : ∃ t, exec (decode (statusWord b)) s = .next t := by
  obtain e | e := decode_statusWord b <;> exact e ▸ ⟨_, rfl⟩

/-- A step of a RUNNING machine waits at most for the answer that is next when it begins (rules R115, R222). -/
theorem step_completesOrWaits {s : State} (hr : s.run = .running) : CompletesOrWaits s (step s) := by
  match hj : s.job with
  | some j =>
    rw [step_string hr hj]
    exact Res.finish_completesOrWaits nextInput_of_memRead_blocked _
  | none =>
    rw [step_fetches hr hj]
    refine Res.andThen_completesOrWaits nextInput_of_memRead_blocked fun w u hw => ?_
    obtain ⟨-, -, rfl⟩ | ⟨-, b, -, rfl, -⟩ := memRead_ok hw
    · exact exec_completesOrWaits (decode w) (advance u)
    · exact .inl (exec_statusWord_next b (advance u))

theorem step_failed {s : State} {f : Fault} (h : s.run = .failed f) : step s = .fault f := by
  simp [step, stepWith, h]

theorem step_halted {s : State} (h : s.run = .halted) : step s = .refused .halted := by
  simp [step, stepWith, h]

/-! The fetch at the keyboard-status address. -/

/-- The state the status word's instruction runs from: after the device's update and the PC's increment (rule R112). -/
def statusFetched (b : Byte) (s : State) : State := advance (keyboardUpdate b (s.withInput s.nextInput.2))

theorem statusFetched_runKept (b : Byte) (s : State) : RunKept s (statusFetched b s) :=
  ⟨keyboardUpdate_run b _, keyboardUpdate_job b _⟩

theorem statusFetched_frame (b : Byte) (s : State) :
    (statusFetched b s).pc = s.pc + 1 ∧ (statusFetched b s).cond = s.cond ∧ RegsKeptBut [] s (statusFetched b s) ∧
      KeyboardUpdated b s (statusFetched b s) ∧ InputTaken s (statusFetched b s) :=
  ⟨congrArg (· + 1) (keyboardUpdate_pc b _), keyboardUpdate_cond b _, fun r _ => keyboardUpdate_reg b _ r,
    keyboardUpdate_updated b (s.withInput s.nextInput.2), keyboardUpdate_input b _,
    ⟨keyboardUpdate_outAnswers b _, keyboardUpdate_output b _⟩, keyboardUpdate_echoAnswers b _, keyboardUpdate_echo b _⟩

/-- A step that fetches the status word runs its instruction (rules R53, R112). -/
theorem step_statusFetched {s : State} {b : Byte} (hr : s.run = .running) (hj : s.job = none)
    (hpc : s.pc = params.kbsrAddr) (hb : s.nextInput.1 = some (.byte b)) :
    step s = exec (decode (statusWord b)) (statusFetched b s) := by
  rw [step_fetches hr hj, hpc, memRead_byte hb]
  rfl

/-- The available word is RTI (the spec's decisions D1 and D6). -/
theorem decode_statusWord_nonzero {b : Byte} (h : b ≠ 0) : decode (statusWord b) = .rti := by
  rw [statusWord, if_neg h]
  decide

/-- The zero word is a BR with an empty mask. -/
theorem decode_statusWord_zero : decode (statusWord 0) = .br false false false 0 := by
  decide

/-- A BR with an empty mask is never taken, whatever COND holds (rule R141). -/
theorem exec_br_never (off : BitVec 9) (s : State) : exec (.br false false false off) s = .next s := by
  have hmask : branchTaken false false false s = false := by simp [branchTaken, maskWord]
  show execBr false false false off s = .next s
  simp [execBr, hmask]

/-- What a step leaves that ends at a failed read of the keyboard (rule R55). -/
theorem stoppedAtRead_raise (c : Cause) (s : State) :
    StoppedAtRead c s (raise (.ioFailure c) (s.withInput s.nextInput.2)) :=
  ⟨⟨rfl, rfl⟩, fun _ _ => rfl, ⟨rfl, rfl⟩, fun _ => rfl, rfl, ⟨rfl, rfl⟩, ⟨rfl, rfl⟩⟩

/-! The instruction that halts. -/

/-- An instruction that ends HALTED does not end with a result. -/
theorem Ends.flagSource_of_halted {i : Instr} {u t : State} (h : Ends i u t) (hu : u.run = .running)
    (ht : t.run = .halted) : flagSource i = none := by
  cases h with
  | result => simp [hu] at ht
  | failed => simp at ht
  | stored hi | jumped hi | walks hi | halted hi | done hi => exact hi

theorem execSti_run {sr : Reg} {off : BitVec 9} {s t : State} (h : execSti sr off s = .next t) :
    t.run = s.run ∨ ∃ f, t.run = .failed f := by
  obtain ⟨p, u, hr, rfl⟩ | ⟨c, u, -, rfl⟩ := Res.finish_next h
  · exact .inl (IoOnly.memRead hr).run
  · exact .inr ⟨_, rfl⟩

theorem execTrapOut_run {s t : State} (h : execTrapOut s = .next t) : t.run = s.run ∨ ∃ f, t.run = .failed f := by
  obtain rfl := Host.Outcome.next.inj h
  obtain ⟨-, e⟩ | ⟨c, -, e⟩ := afterWrites_cases (outByte (lowByte ((link s).reg .r0)) (link s)) id
  · exact .inl ((congrArg State.run e).trans ((IoOnly.refl (link s)).outByte _).run)
  · exact .inr ⟨_, congrArg State.run e⟩

/-- Of the rows the decoder answers only HALT's ends HALTED (rule R117). -/
theorem eq_trapHalt_of_exec_halted {i : Instr} {s t : State} (hi : ∀ v, i ≠ .trap v) (hr : s.run = .running)
    (h : exec i s = .next t) (ht : t.run = .halted) : i = .trapHalt := by
  obtain ⟨u, hu, he⟩ := exec_ends h
  have hflags := he.flagSource_of_halted (by rw [hu.run, opening_run, hr]) ht
  have hne : ¬ (t.run = s.run ∨ ∃ f, t.run = .failed f) := by simp [hr, ht]
  cases i with
  | addReg | addImm | andReg | andImm | not | ld | ldi | ldr | lea | trapGetc | trapIn => simp [flagSource] at hflags
  | br n z p off =>
    obtain rfl := Host.Outcome.next.inj h
    split at hne <;> exact absurd (.inl rfl) hne
  | jmp | jsr | jsrr | st | str | trapPuts | trapPutsp =>
    obtain rfl := Host.Outcome.next.inj h
    exact absurd (.inl rfl) hne
  | sti => exact absurd (execSti_run h) hne
  | trapOut => exact absurd (execTrapOut_run h) hne
  | trap v => exact absurd rfl (hi v)
  | trapHalt => rfl
  | trapOther | rti | reserved =>
    obtain rfl := Host.Outcome.next.inj h
    exact absurd (.inr ⟨_, rfl⟩) hne

end Sys2Proof.Machine

namespace Sys2Proof.Proofs

open Sys2Proof.Machine Sys2Proof.Safety

/-- Settles O18, by the answers of the input stream: the status word read is RTI, or a BR with an empty mask. -/
theorem theFetchReadsTheKeyboardToo : Obligations.TheFetchReadsTheKeyboardToo := by
  intro s hr hj hpc
  refine ⟨fun b hne hb => ?_, fun hb => ?_, fun c hc => ?_, fun hn => ?_⟩
  · rw [step_statusFetched hr hj hpc hb, decode_statusWord_nonzero hne]
    exact ⟨_, rfl, ⟨rfl, rfl⟩, statusFetched_frame b s⟩
  · rw [step_statusFetched hr hj hpc hb, decode_statusWord_zero, exec_br_never]
    exact ⟨_, rfl, statusFetched_runKept 0 s, statusFetched_frame 0 s⟩
  · rw [step_fetches hr hj, hpc, memRead_fail hc]
    exact ⟨_, rfl, stoppedAtRead_raise c s⟩
  · rw [step_fetches hr hj, hpc, memRead_blocked hn]
    rfl

/-- Settles O20, by the run state: a RUNNING machine goes on or waits, a HALTED one is refused. -/
theorem aStepFaultsExactlyWhereFailed : Obligations.AStepFaultsExactlyWhereFailed := by
  refine fun s f => ⟨fun h => ?_, step_failed⟩
  match hrun : s.run with
  | .running => exact absurd h ((step_completesOrWaits hrun).ne_fault f)
  | .halted => simp [step_halted hrun] at h
  | .failed g =>
    rw [step_failed hrun] at h
    rw [Host.Outcome.fault.inj h]

/-- Settles O21: a step waits for no answer but the next one. -/
theorem anAnsweredStepCompletes : Obligations.AnAnsweredStepCompletes :=
  fun _ hr hin => (step_completesOrWaits hr).resolve_right fun ⟨_, hnone⟩ => hin hnone

/-- Settles O28: of all that a step can do only an instruction can end HALTED, and it is HALT's; the status word is not. -/
theorem onlyTheHaltTrapHalts : Obligations.OnlyTheHaltTrapHalts := by
  refine fun s hr => ⟨fun hj hpc hdec => ?_, fun t h ht => ?_⟩
  · rw [aStepRunsTheDecodedInstruction s hr hj hpc, hdec]
    exact ⟨_, rfl, rfl⟩
  · cases step_ends h with
    | walked _ hu => simp [hu.run, hr] at ht
    | walkFailed | fetchFailed => simp at ht
    | @ran w u _ hj hw hx =>
      have hdec : decode w = .trapHalt :=
        eq_trapHalt_of_exec_halted (s := advance u) (decode_wellFormed w).2 ((IoOnly.memRead hw).run.trans hr) hx ht
      obtain ⟨hpc, rfl, -⟩ | ⟨-, b, -, rfl, -⟩ := memRead_ok hw
      · exact ⟨hj, hpc, hdec⟩
      · obtain e | e := decode_statusWord b <;> simp [e] at hdec

/-- Settles O19: a step with a next state is a step of a RUNNING machine. -/
theorem noStepLeavesATerminalState : Obligations.NoStepLeavesATerminalState :=
  fun _ hne _ h => hne (step_next_running h)

end Sys2Proof.Proofs

/-! PROOFS. The operate instructions (rules R131 to R135): how an instruction that ends by writing a result computes it, the
immediate as a signed number, and the decoding of ADD, AND and NOT. -/

namespace Sys2Proof

open Machine Sys2Proof.Safety

/-- A word whose opcode field holds an opcode's number is looked up as that opcode (rule R80). -/
theorem opcodeOf_opField {w : Word} {o : Opcode} (h : opAt w = params.opcode o) : opcodeOf (opField w) = o := by
  rw [show opField w = params.opcode o from h, opcodeOf_opcode]

theorem decode_add {w : Word} (h : opAt w = params.opcode .add) :
    decode w = if w.getLsbD params.posMode then .addImm (drField w) (sr1Field w) (immField 5 w)
      else .addReg (drField w) (sr1Field w) (sr2Field w) := by
  rw [decode, opcodeOf_opField h]

theorem decode_and {w : Word} (h : opAt w = params.opcode .and) :
    decode w = if w.getLsbD params.posMode then .andImm (drField w) (sr1Field w) (immField 5 w)
      else .andReg (drField w) (sr1Field w) (sr2Field w) := by
  rw [decode, opcodeOf_opField h]

theorem decode_not {w : Word} (h : opAt w = params.opcode .not) : decode w = .not (drField w) (sr1Field w) := by
  rw [decode, opcodeOf_opField h]

end Sys2Proof

namespace Sys2Proof.Machine

open Sys2Proof.Safety

/-- A data instruction's ending: the result, its tag, and nothing else of the register file or the run state (rule R29). -/
theorem writeResult_resultWritten (dr : Reg) (v : Word) (s : State) : ResultWritten dr v s (writeResult dr v s) := by
  have hflags : FlagsFollow v (writeResult dr v s).cond := by
    rw [writeResult_cond]
    exact tagOf_sign v
  have hothers : RegsKeptBut [dr] s (writeResult dr v s) := fun r hr => by
    rw [writeResult_reg, if_neg (by simpa using hr)]
  exact ⟨writeResult_reg_same dr v s, hflags, hothers, rfl, rfl, rfl⟩

/-- An instruction that only writes a result computes it: memory and the streams are as they were. -/
theorem computes_of_exec {i : Instr} {dr : Reg} {v : Word} {s : State} (h : exec i s = .next (writeResult dr v s)) :
    Computes i dr v s :=
  ⟨_, h, writeResult_resultWritten dr v s, fun _ => rfl, rfl, ⟨rfl, rfl⟩, rfl, rfl⟩

/-- A sign-extended field is the word of the field's signed value (rule R10). -/
theorem sext_eq_ofInt {n : Nat} (hn : n ≤ 16) (f : BitVec n) : sext f = BitVec.ofInt 16 f.toInt := by
  rw [← sext_toInt hn, BitVec.ofInt_toInt]

/-- Adding a sign-extended field adds its signed value, modulo 65536 (rules R10, R85). -/
theorem add_sext {n : Nat} (hn : n ≤ 16) (w : Word) (f : BitVec n) :
    w + sext f = BitVec.ofInt 16 (w.toNat + f.toInt) := by
  rw [BitVec.ofInt_add, BitVec.ofInt_natCast, BitVec.ofNat_toNat, BitVec.setWidth_eq, sext_eq_ofInt hn]

/-- The complement of a word is its distance from 0xFFFF (rule R133). -/
theorem not_eq_ofNat_sub (w : Word) : ~~~w = BitVec.ofNat 16 (0xFFFF - w.toNat) := by
  apply BitVec.eq_of_toNat_eq
  rw [BitVec.toNat_not, BitVec.toNat_ofNat]
  omega

end Sys2Proof.Machine

namespace Sys2Proof.Proofs

open Sys2Proof.Machine Sys2Proof.Safety

/-- Settles O31: decoding by the mode bit, and either mode ends with the sum in DR. -/
theorem addFollowsItsRule : Obligations.AddFollowsItsRule := by
  refine ⟨fun w hop hmode => (decode_add hop).trans (if_neg (by simp [hmode])),
    fun w hop hmode => (decode_add hop).trans (if_pos hmode), fun s dr sr1 sr2 => ?_, fun s dr sr1 imm5 => ?_⟩
  · rw [← BitVec.add_def]
    exact computes_of_exec rfl
  · rw [← add_sext (by decide)]
    exact computes_of_exec rfl

/-- Settles O32: decoding by the mode bit, and either mode ends with the bitwise and in DR. -/
theorem andFollowsItsRule : Obligations.AndFollowsItsRule := by
  refine ⟨fun w hop hmode => (decode_and hop).trans (if_neg (by simp [hmode])),
    fun w hop hmode => (decode_and hop).trans (if_pos hmode), fun s dr sr1 sr2 => computes_of_exec rfl,
    fun s dr sr1 imm5 => ?_⟩
  rw [← sext_eq_ofInt (by decide)]
  exact computes_of_exec rfl

/-- Settles O33: decoding reads no mode bit, and the complement ends in DR. -/
theorem notFollowsItsRule : Obligations.NotFollowsItsRule := by
  refine ⟨fun _ => decode_not, fun s dr sr => ?_⟩
  rw [← not_eq_ofNat_sub]
  exact computes_of_exec rfl

end Sys2Proof.Proofs

/-! PROOFS. The control instructions (rules R141 to R145): their decoding, BR's condition by the bits of its mask, and the
one frame that setting the PC and writing the link leave. -/

namespace Sys2Proof

open Machine Sys2Proof.Safety

theorem decode_br {w : Word} (h : opAt w = params.opcode .br) :
    decode w = .br (w.getLsbD params.posN) (w.getLsbD params.posZ) (w.getLsbD params.posP) (immField 9 w) := by
  rw [decode, opcodeOf_opField h]

theorem decode_jmp {w : Word} (h : opAt w = params.opcode .jmp) : decode w = .jmp (sr1Field w) := by
  rw [decode, opcodeOf_opField h]

theorem decode_jsr {w : Word} (h : opAt w = params.opcode .jsr) :
    decode w = if w.getLsbD params.posJsrMode then .jsr (immField 11 w) else .jsrr (sr1Field w) := by
  rw [decode, opcodeOf_opField h]

end Sys2Proof

namespace Sys2Proof.Machine

open Sys2Proof.Safety

/-- A control instruction's frame: the registers listed and the PC apart, nothing changes (rules R29, R140). -/
abbrev ControlFrame (rs : List Reg) (s t : State) : Prop :=
  t.cond = s.cond ∧ RegsKeptBut rs s t ∧ RunKept s t ∧ MemKept s t ∧ StreamsKept s t

theorem withPc_controlFrame (v : Word) (s : State) : ControlFrame [] s (s.withPc v) :=
  ⟨rfl, fun _ _ => rfl, ⟨rfl, rfl⟩, fun _ => rfl, rfl, ⟨rfl, rfl⟩, rfl, rfl⟩

theorem link_withPc_controlFrame (v : Word) (s : State) : ControlFrame [.r7] s ((link s).withPc v) := by
  have hothers : RegsKeptBut [.r7] s ((link s).withPc v) := fun r hr => by
    rw [State.withPc_reg, link_reg, if_neg (by simpa using hr)]
  exact ⟨rfl, hothers, ⟨rfl, rfl⟩, fun _ => rfl, rfl, ⟨rfl, rfl⟩, rfl, rfl⟩

/-- The PC-relative target is the PC plus the signed offset, modulo 65536 (rules R141, R143). -/
theorem pcRelative_eq_ofInt {n : Nat} (hn : n ≤ 16) (off : BitVec n) (s : State) :
    pcRelative off s = BitVec.ofInt 16 (s.pc.toNat + off.toInt) :=
  add_sext hn s.pc off

theorem maskNumber_and_flNeg (n z p : Bool) : maskNumber n z p &&& params.flNeg ≠ 0 ↔ n = true := by
  revert n z p
  decide

theorem maskNumber_and_flZero (n z p : Bool) : maskNumber n z p &&& params.flZero ≠ 0 ↔ z = true := by
  revert n z p
  decide

theorem maskNumber_and_flPos (n z p : Bool) : maskNumber n z p &&& params.flPos ≠ 0 ↔ p = true := by
  revert n z p
  decide

/-- For a legal tag BR's numeric test is the n/z/p reading: each tag meets its own bit of the mask alone (rule R141). -/
theorem maskNumber_and_ne_zero_iff {c : Word} (hc : CondLegal c) (n z p : Bool) :
    maskNumber n z p &&& c ≠ 0 ↔
      (n = true ∧ c = params.flNeg) ∨ (z = true ∧ c = params.flZero) ∨ (p = true ∧ c = params.flPos) := by
  have hNZ : params.flNeg ≠ params.flZero := by decide
  have hNP : params.flNeg ≠ params.flPos := by decide
  have hZP : params.flZero ≠ params.flPos := by decide
  obtain rfl | rfl | rfl := hc
  · rw [maskNumber_and_flPos]
    simp [hNP.symm, hZP.symm]
  · rw [maskNumber_and_flZero]
    simp [hNZ.symm, hZP]
  · rw [maskNumber_and_flNeg]
    simp [hNZ, hNP]

/-- BR sets the PC in either case: where it is not taken, to what it already is (rule R141). -/
theorem exec_br_eq (n z p : Bool) (off : BitVec 9) (s : State) :
    exec (.br n z p off) s = .next (s.withPc
      (if maskNumber n z p &&& s.cond ≠ 0 then BitVec.ofInt 16 (s.pc.toNat + off.toInt) else s.pc)) := by
  show execBr n z p off s = _
  rw [execBr, branchTaken, maskWord_eq_maskNumber, pcRelative_eq_ofInt (by decide)]
  by_cases h : maskNumber n z p &&& s.cond ≠ 0
  · rw [if_pos h, if_pos (bne_iff_ne.2 h)]
  · rw [if_neg h, if_neg (mt bne_iff_ne.1 h)]
    rfl

end Sys2Proof.Machine

namespace Sys2Proof.Proofs

open Sys2Proof.Machine Sys2Proof.Safety

/-- Settles O34: either way BR sets the PC and nothing else, and each tag meets its own bit of the mask. -/
theorem branchFollowsItsRule : Obligations.BranchFollowsItsRule :=
  ⟨fun _ => decode_br, fun s n z p off =>
    ⟨_, exec_br_eq n z p off s, rfl, fun hc => maskNumber_and_ne_zero_iff hc n z p, withPc_controlFrame _ s⟩⟩

/-- Settles O36: the mode bit is set, and the link write leaves the PC the target is computed from. -/
theorem jsrFollowsItsRule : Obligations.JsrFollowsItsRule :=
  ⟨fun _ hop hmode => (decode_jsr hop).trans (if_pos hmode), fun s off =>
    ⟨_, rfl, link_reg_r7 s, pcRelative_eq_ofInt (by decide) off (link s), link_withPc_controlFrame _ s⟩⟩

/-- Settles O37: the mode bit is clear, and the base is read after the link, so R7 as base reads the incremented PC. -/
theorem jsrrFollowsItsRule : Obligations.JsrrFollowsItsRule :=
  ⟨fun _ hop hmode => (decode_jsr hop).trans (if_neg (by simp [hmode])), fun s base =>
    ⟨_, rfl, link_reg_r7 s, link_reg s base, link_withPc_controlFrame _ s⟩⟩

/-- Settles O35: JMP sets the PC to the base register's word and nothing else. -/
theorem jumpFollowsItsRule : Obligations.JumpFollowsItsRule :=
  ⟨fun _ => decode_jmp, fun s _ => ⟨_, rfl, rfl, withPc_controlFrame _ s⟩⟩

end Sys2Proof.Proofs

/-! PROOFS. The loads and stores (rules R150 to R157): their decoding, what a load and a store through any address do, and
the same through a pointer, where either read may be the keyboard's. -/

namespace Sys2Proof

open Machine Sys2Proof.Safety

theorem decode_ld {w : Word} (h : opAt w = params.opcode .ld) : decode w = .ld (drField w) (immField 9 w) := by
  rw [decode, opcodeOf_opField h]

theorem decode_ldi {w : Word} (h : opAt w = params.opcode .ldi) : decode w = .ldi (drField w) (immField 9 w) := by
  rw [decode, opcodeOf_opField h]

theorem decode_ldr {w : Word} (h : opAt w = params.opcode .ldr) :
    decode w = .ldr (drField w) (sr1Field w) (immField 6 w) := by
  rw [decode, opcodeOf_opField h]

theorem decode_lea {w : Word} (h : opAt w = params.opcode .lea) : decode w = .lea (drField w) (immField 9 w) := by
  rw [decode, opcodeOf_opField h]

theorem decode_st {w : Word} (h : opAt w = params.opcode .st) : decode w = .st (drField w) (immField 9 w) := by
  rw [decode, opcodeOf_opField h]

theorem decode_sti {w : Word} (h : opAt w = params.opcode .sti) : decode w = .sti (drField w) (immField 9 w) := by
  rw [decode, opcodeOf_opField h]

theorem decode_str {w : Word} (h : opAt w = params.opcode .str) :
    decode w = .str (drField w) (sr1Field w) (immField 6 w) := by
  rw [decode, opcodeOf_opField h]

end Sys2Proof

namespace Sys2Proof.Machine

open Sys2Proof.Safety

/-- The base-plus-offset address is the base plus the signed offset, modulo 65536 (rule R150). -/
theorem baseOffset_eq_ofInt (base : Reg) (off : BitVec 6) (s : State) :
    baseOffset base off s = BitVec.ofInt 16 ((s.reg base).toNat + off.toInt) :=
  add_sext (by decide) (s.reg base) off

/-- The status word names neither keyboard word: what it points at is no part of the device (rules R53, R57). -/
theorem statusWord_ne_kbdrAddr (b : Byte) : statusWord b ≠ params.kbdrAddr := by
  unfold statusWord
  split <;> decide

/-- `Res.finish` is `Res.andThen` with nothing more to ask. -/
theorem Res.finish_eq_andThen {α : Type} (r : Res α) (k : α → State → State) :
    r.finish k = r.andThen fun a t => .next (k a t) := by
  match r with
  | .blocked => rfl
  | .done (.ok _) _ => rfl
  | .done (.error _) _ => rfl

/-- The state after a keyboard read that gets a byte: the answer is taken and the device has updated its words (rule R53). -/
def afterKeyboardRead (b : Byte) (s : State) : State := keyboardUpdate b (s.withInput s.nextInput.2)

theorem afterKeyboardRead_ioOnly (b : Byte) (s : State) : IoOnly s (afterKeyboardRead b s) := .keyboardRead b s

theorem afterKeyboardRead_updated (b : Byte) (s : State) : KeyboardUpdated b s (afterKeyboardRead b s) :=
  keyboardUpdate_updated b (s.withInput s.nextInput.2)

theorem afterKeyboardRead_inputTaken (b : Byte) (s : State) : InputTaken s (afterKeyboardRead b s) :=
  ⟨keyboardUpdate_input b _, ⟨keyboardUpdate_outAnswers b _, keyboardUpdate_output b _⟩, keyboardUpdate_echoAnswers b _,
    keyboardUpdate_echo b _⟩

/-- The word a status word points at is the one that stood there before the keyboard read. -/
theorem afterKeyboardRead_memAt_statusWord (b : Byte) (s : State) :
    (afterKeyboardRead b s).memAt (statusWord b) = s.memAt (statusWord b) :=
  keyboardUpdate_read_other b _ (toNat_ne (statusWord_ne_kbsrAddr b)) (toNat_ne (statusWord_ne_kbdrAddr b))

theorem andThen_keyboardByte {s : State} {b : Byte} (h : s.nextInput.1 = some (.byte b)) (k : Word → State → Outcome) :
    (memRead params.kbsrAddr s).andThen k = k (statusWord b) (afterKeyboardRead b s) := by
  rw [memRead_byte h]
  rfl

theorem andThen_plain {s : State} {a : Word} (h : a ≠ params.kbsrAddr) (k : Word → State → Outcome) :
    (memRead a s).andThen k = k (s.memAt a) s := by
  rw [memRead_plain s h]
  rfl

/-- A result written after reads of the devices: they left the register file and the run state alone. -/
theorem IoOnly.resultWritten {s u : State} (h : IoOnly s u) (dr : Reg) (v : Word) :
    ResultWritten dr v s (writeResult dr v u) := by
  obtain ⟨hv, hflags, hothers, hpc, hrun, hjob⟩ := writeResult_resultWritten dr v u
  exact ⟨hv, hflags, fun r hr => (hothers r hr).trans (h.reg r), hpc.trans h.pc, hrun.trans h.run, hjob.trans h.job⟩

section
variable {i : Instr} {r : Reg} {a : Word} {s : State}

/-- Whatever would follow it, a keyboard read that fails or is never answered ends the step (rules R55, R222). -/
theorem stopsWhereTheReadDoes_of_exec {k : Word → State → Outcome}
    (h : exec i s = (memRead params.kbsrAddr s).andThen k) : StopsWhereTheReadDoes i s := by
  refine ⟨fun c hc => ⟨_, ?_, stoppedAtRead_raise c s⟩, fun hnone => ?_⟩
  · rw [h, memRead_fail hc]
    rfl
  · rw [h, memRead_blocked hnone]
    rfl

/-- An instruction that ends as `load` loads from the address, the keyboard's or a plain one (rules R151 to R153). -/
theorem loads_of_exec (h : exec i s = load r a s) : Loads i r a s := by
  rw [load, Res.finish_eq_andThen] at h
  refine ⟨fun ha => computes_of_exec (h.trans (andThen_plain ha _)), ?_, ?_⟩
  · rintro rfl b hb
    exact ⟨_, h.trans (andThen_keyboardByte hb _), (afterKeyboardRead_ioOnly b s).resultWritten r _,
      afterKeyboardRead_updated b s, afterKeyboardRead_inputTaken b s⟩
  · rintro rfl
    exact stopsWhereTheReadDoes_of_exec h

/-- An instruction that reads a pointer and ends as `load` loads through it; a pointer that is a status word names no
device, so of the two reads at most one is the keyboard's (rule R152). -/
theorem loadsThrough_of_exec (h : exec i s = (memRead a s).andThen fun p t => load r p t) : LoadsThrough i r a s := by
  refine ⟨fun ha => loads_of_exec (h.trans (andThen_plain ha _)), ?_, ?_⟩
  · rintro rfl b hb
    have hload : exec i s = .next (writeResult r (s.memAt (statusWord b)) (afterKeyboardRead b s)) := by
      rw [h, andThen_keyboardByte hb, load, Res.finish_eq_andThen, andThen_plain (statusWord_ne_kbsrAddr b),
        afterKeyboardRead_memAt_statusWord]
    exact ⟨_, hload, (afterKeyboardRead_ioOnly b s).resultWritten r _, afterKeyboardRead_updated b s,
      afterKeyboardRead_inputTaken b s⟩
  · rintro rfl
    exact stopsWhereTheReadDoes_of_exec h

/-- An instruction that only writes a register's word to memory stores it (rules R56, R155, R157). -/
theorem stores_of_exec (h : exec i s = .next (memWrite a (s.reg r) s)) : Stores i r a s :=
  ⟨_, h, Proofs.memWriteIsAPlainStore s a (s.reg r)⟩

/-- A store at the status word after a keyboard read leaves the device's words as the read left them. -/
theorem memWrite_statusWord_keyboardWords (b : Byte) (v : Word) (s : State) :
    KeyboardWords b s (memWrite (statusWord b) v (afterKeyboardRead b s)) := by
  obtain ⟨⟨hstatus, hdata⟩, -⟩ := afterKeyboardRead_updated b s
  exact ⟨(memWrite_memAt_other _ v (statusWord_ne_kbsrAddr b).symm).trans hstatus,
    (memWrite_memAt_other _ v (statusWord_ne_kbdrAddr b).symm).trans hdata⟩

/-- A store after a keyboard read changes the word stored and the device's two, and no other. -/
theorem memWrite_afterKeyboardRead_memKeptBut (b : Byte) (v : Word) (s : State) :
    MemKeptBut [a, params.kbsrAddr, params.kbdrAddr] s (memWrite a v (afterKeyboardRead b s)) := by
  intro n hn
  have hstore := Memory.read_write_other (afterKeyboardRead b s).mem v (hn a (by simp))
  exact hstore.trans ((afterKeyboardRead_ioOnly b s).memKeptBut n fun d hd => hn d (List.mem_cons_of_mem a hd))

/-- An instruction that reads a pointer and stores at it stores through it, once the read has answered (rule R156). -/
theorem storesThrough_of_exec (h : exec i s = (memRead a s).finish fun p t => memWrite p (t.reg r) t) :
    StoresThrough i r a s := by
  rw [Res.finish_eq_andThen] at h
  refine ⟨fun ha => stores_of_exec (h.trans (andThen_plain ha _)), ?_, ?_⟩
  · rintro rfl b hb
    have hio := afterKeyboardRead_ioOnly b s
    exact ⟨_, h.trans (andThen_keyboardByte hb _), (memWrite_memAt_same _ _ _).trans (hio.reg r),
      memWrite_statusWord_keyboardWords b _ s, memWrite_afterKeyboardRead_memKeptBut b _ s, fun q _ => hio.reg q,
      ⟨hio.pc, hio.cond⟩, ⟨hio.run, hio.job⟩, afterKeyboardRead_inputTaken b s⟩
  · rintro rfl
    exact stopsWhereTheReadDoes_of_exec h

end

end Sys2Proof.Machine

namespace Sys2Proof.Proofs

open Sys2Proof.Machine Sys2Proof.Safety

/-- Settles O38: LD is `load` at the PC-relative address. -/
theorem ldFollowsItsRule : Obligations.LdFollowsItsRule := by
  refine ⟨fun _ => decode_ld, fun s dr off => ?_⟩
  rw [← pcRelative_eq_ofInt (by decide)]
  exact loads_of_exec rfl

/-- Settles O39: LDI reads its pointer at the PC-relative address, and then is `load` at the pointer. -/
theorem ldiFollowsItsRule : Obligations.LdiFollowsItsRule := by
  refine ⟨fun _ => decode_ldi, fun s dr off => ?_⟩
  rw [← pcRelative_eq_ofInt (by decide)]
  exact loadsThrough_of_exec rfl

/-- Settles O40: LDR is `load` at the base-plus-offset address of the state before DR is written. -/
theorem ldrFollowsItsRule : Obligations.LdrFollowsItsRule := by
  refine ⟨fun _ => decode_ldr, fun s dr base off => ?_⟩
  rw [← baseOffset_eq_ofInt]
  exact loads_of_exec rfl

/-- Settles O41: LEA writes the PC-relative address itself. -/
theorem leaFollowsItsRule : Obligations.LeaFollowsItsRule := by
  refine ⟨fun _ => decode_lea, fun s dr off => ?_⟩
  rw [← pcRelative_eq_ofInt (by decide)]
  exact computes_of_exec rfl

/-- Settles O42: ST writes at the PC-relative address, the keyboard's words included. -/
theorem stFollowsItsRule : Obligations.StFollowsItsRule :=
  ⟨fun _ => decode_st, fun s _ off => ⟨pcRelative_eq_ofInt (by decide) off s, stores_of_exec rfl⟩⟩

/-- Settles O43: STI reads its pointer at the PC-relative address, and then stores at the pointer. -/
theorem stiFollowsItsRule : Obligations.StiFollowsItsRule :=
  ⟨fun _ => decode_sti, fun s _ off => ⟨pcRelative_eq_ofInt (by decide) off s, storesThrough_of_exec rfl⟩⟩

/-- Settles O44: STR writes at the base-plus-offset address, and nothing of the register file changes. -/
theorem strFollowsItsRule : Obligations.StrFollowsItsRule :=
  ⟨fun _ => decode_str, fun s _ base off => ⟨baseOffset_eq_ofInt base off s, stores_of_exec rfl⟩⟩

end Sys2Proof.Proofs

/-! PROOFS. TRAP's dispatch and entry (rules R88, R170): the row that a vector names, what every trap leaves, the four
services that end with their TRAP, and the vectors with no handler (rules R173, R174, R178, R182, R183). -/

namespace Sys2Proof

open Machine Sys2Proof.Safety

theorem decode_trap {w : Word} (h : opAt w = params.opcode .trap) : decode w = trapRow (w.extractLsb' 0 8) := by
  rw [decode, opcodeOf_opField h]
  rfl

theorem decode_trap_vector {w : Word} {t : TrapService} (h : opAt w = params.opcode .trap)
    (hv : w.extractLsb' 0 8 = params.vector t) : decode w = trapRow (params.vector t) := by
  rw [decode_trap h, hv]

/-- A vector has no handler just where it is none of the six (rules R88, R183). -/
theorem serviceOf_eq_none_iff {v : BitVec 8} : serviceOf v = none ↔ ∀ t, v ≠ params.vector t := by
  constructor
  · rintro h t rfl
    simp at h
  · intro hv
    match h : serviceOf v with
    | none => rfl
    | some t => exact absurd (vector_of_serviceOf h).symm (hv t)

theorem trapRow_eq_trapOther {v : BitVec 8} (h : ∀ t, v ≠ params.vector t) : trapRow v = .trapOther v := by
  rw [trapRow, serviceOf_eq_none_iff.2 h]

end Sys2Proof

namespace Sys2Proof.Machine

open Sys2Proof.Safety

theorem inByte_byte {s : State} {b : Byte} (h : s.nextInput.1 = some (.byte b)) :
    inByte s = .done (.ok b) (s.withInput s.nextInput.2) := by
  rw [inByte_eq, h]
  rfl

theorem inByte_fail {s : State} {c : Cause} (h : s.nextInput.1 = some (.fail c)) :
    inByte s = .done (.error c) (s.withInput s.nextInput.2) := by
  rw [inByte_eq, h]
  rfl

theorem inByte_blocked {s : State} (h : s.nextInput.1 = none) : inByte s = .blocked := by
  rw [inByte_eq, h]

theorem outByte_ok {s : State} (b : Byte) (h : s.nextOut.1 = .ok) : outByte b s = (none, emitted b s) := by
  rw [outByte_eq, h]
  rfl

theorem outByte_fail {s : State} {c : Cause} (b : Byte) (h : s.nextOut.1 = .fail c) :
    outByte b s = (some c, s.withOutAnswers s.nextOut.2) := by
  rw [outByte_eq, h]

/-- The state after a byte was emitted on the echo channel (rule R36). -/
def echoed (b : Byte) (s : State) : State := (s.withEchoAnswers s.nextEcho.2).withEcho (s.echo ++ [b])

theorem IoOnly.withEchoAnswers {s u : State} (h : IoOnly s u) (q : Supply OutAnswer) : IoOnly s (u.withEchoAnswers q) :=
  ⟨h.regs, h.pc, h.cond, h.run, h.job, h.device⟩

theorem IoOnly.echoed {s u : State} (h : IoOnly s u) (b : Byte) : IoOnly s (echoed b u) :=
  ⟨h.regs, h.pc, h.cond, h.run, h.job, h.device⟩

theorem echoAndStore_ok {s : State} (b : Byte) (h : s.nextEcho.1 = .ok) :
    echoAndStore b s = storeByte b (echoed b s) := by
  rw [echoAndStore, echoByte_eq, h]
  rfl

theorem echoAndStore_fail {s : State} {c : Cause} (b : Byte) (h : s.nextEcho.1 = .fail c) :
    echoAndStore b s = raise (.ioFailure c) (s.withEchoAnswers s.nextEcho.2) := by
  rw [echoAndStore, echoByte_eq, h]
  rfl

/-- A zero-extended byte is never negative (rules R28, R173). -/
theorem tagOf_zext8 (b : Byte) : tagOf (zext8 b) = if b = 0 then params.flZero else params.flPos := by
  have hzero : zext8 b = 0 ↔ b = 0 := by
    constructor
    · intro h
      have hlow : (zext8 b).setWidth 8 = b := BitVec.setWidth_setWidth_of_le b (by decide)
      rw [← hlow, h]
      rfl
    · rintro rfl
      rfl
  have hsign : (zext8 b).getLsbD 15 = false := by
    rw [zext8, BitVec.getLsbD_setWidth, BitVec.getLsbD_of_ge b 15 (by decide), Bool.and_false]
  simp only [tagOf, hzero, hsign]
  rfl

/-- The entry changes R7 alone (rules R170, R217). -/
theorem link_controlFrame (s : State) : ControlFrame [.r7] s (link s) := link_withPc_controlFrame s.pc s

/-- A register other than R7 is as it was before the entry. -/
theorem IoOnly.reg_of_link {s u : State} (h : IoOnly (link s) u) {r : Reg} (hr : r ≠ .r7) : u.reg r = s.reg r := by
  rw [h.reg, link_reg, if_neg hr]

/-- Reads and writes of the streams leave the entry's R7 and the PC (rule R170). -/
theorem IoOnly.trapped {s u : State} (h : IoOnly (link s) u) : Trapped s u :=
  ⟨(h.reg .r7).trans (link_reg_r7 s), h.pc⟩

/-- A trap that stores a byte in R0, after operations on the streams alone (rules R173, R178). -/
theorem IoOnly.storeByte_leaves {s u : State} (h : IoOnly (link s) u) (hm : u.mem = s.mem) (b : Byte) :
    Trapped s (storeByte b u) ∧ (storeByte b u).reg .r0 = b.zeroExtend 16 ∧
      (storeByte b u).cond = (if b = 0 then params.flZero else params.flPos) ∧
      RegsKeptBut [.r0, .r7] s (storeByte b u) ∧ RunKept s (storeByte b u) ∧ MemKept s (storeByte b u) := by
  have hreg (r : Reg) (hr : r ≠ .r0) : (storeByte b u).reg r = u.reg r := by
    rw [storeByte, writeResult_reg, if_neg hr]
  obtain ⟨h7, hpc⟩ := h.trapped
  refine ⟨⟨(hreg .r7 (by decide)).trans h7, hpc⟩, writeResult_reg_same _ _ _, ?_, fun r hr => ?_, ⟨h.run, h.job⟩, ?_⟩
  · rw [storeByte, writeResult_cond, tagOf_zext8]
  · obtain ⟨h0, h7⟩ : r ≠ .r0 ∧ r ≠ .r7 := by simpa using hr
    exact (hreg r h0).trans (h.reg_of_link h7)
  · exact fun n => congrArg (·.read n) hm

/-- A trap that fails, after operations on the streams alone: R7 is written, and R0 and COND are as they were. -/
theorem IoOnly.raise_leaves {s u : State} (h : IoOnly (link s) u) (hm : u.mem = s.mem) (f : Fault) :
    FailedWith f (raise f u) ∧ Trapped s (raise f u) ∧ (raise f u).cond = s.cond ∧ RegsKeptBut [.r7] s (raise f u) ∧
      MemKept s (raise f u) :=
  ⟨⟨rfl, rfl⟩, h.trapped, h.cond, fun _ hr => h.reg_of_link (by simpa using hr), fun n => congrArg (·.read n) hm⟩

/-- A trap's result goes to R0 (rules R173, R178). -/
theorem flagSource_trap {v : BitVec 8} {r : Reg} (h : flagSource (.trap v) = some r) : r = .r0 := by
  rw [flagSource] at h
  split at h
  · exact (Option.some.inj h).symm
  · simp at h

/-- Every trap leaves the incremented PC in R7 and in the PC, whatever its handler does (rule R170). -/
theorem exec_trap_trapped {v : BitVec 8} {s t : State} (h : exec (.trap v) s = .next t) : Trapped s t := by
  refine ⟨?_, exec_keeps_pc rfl h⟩
  obtain ⟨u, hu, he⟩ := exec_ends h
  have h7 : u.reg .r7 = s.pc := (hu.reg .r7).trans (link_reg_r7 s)
  cases he with
  | result hi =>
    obtain rfl := flagSource_trap hi
    rw [writeResult_reg, if_neg (by decide), h7]
  | _ => exact h7

theorem written_ioOnly (bs : List Byte) (n : Nat) (s : State) : IoOnly s (written bs n s) :=
  ⟨rfl, rfl, rfl, rfl, rfl, .inl ⟨rfl, rfl⟩⟩

/-- The state in which IN has its byte's answer: the prompt is written and the answer is taken. -/
def promptedAndRead (prompt : List Byte) (s : State) : State :=
  (written prompt prompt.length s).withInput s.nextInput.2

theorem promptedAndRead_ioOnly (prompt : List Byte) (s : State) : IoOnly s (promptedAndRead prompt s) :=
  ⟨rfl, rfl, rfl, rfl, rfl, .inr ⟨rfl, .inl rfl⟩⟩

section
variable {prompt : List Byte} {s : State}

/-- IN goes on to its read once its prompt was written whole (rule R178). -/
theorem serviceInWith_prompted (h : ∀ k < prompt.length, outAnswerAt s k = .ok) :
    serviceInWith prompt s = (inByte (written prompt prompt.length s)).finish echoAndStore := by
  rw [serviceInWith_in_order, outBytes_ok h]

theorem serviceInWith_byte {b : Byte} (h : ∀ k < prompt.length, outAnswerAt s k = .ok)
    (hb : s.nextInput.1 = some (.byte b)) :
    serviceInWith prompt s = .next (echoAndStore b (promptedAndRead prompt s)) := by
  rw [serviceInWith_prompted h, inByte_byte (s := written _ _ s) hb]
  rfl

theorem serviceInWith_echoed {b : Byte} (h : ∀ k < prompt.length, outAnswerAt s k = .ok)
    (hb : s.nextInput.1 = some (.byte b)) (hecho : s.nextEcho.1 = .ok) :
    serviceInWith prompt s = .next (storeByte b (echoed b (promptedAndRead prompt s))) := by
  rw [serviceInWith_byte h hb, echoAndStore_ok (s := promptedAndRead prompt s) b hecho]

theorem serviceInWith_echoFails {b : Byte} {c : Cause} (h : ∀ k < prompt.length, outAnswerAt s k = .ok)
    (hb : s.nextInput.1 = some (.byte b)) (hecho : s.nextEcho.1 = .fail c) :
    serviceInWith prompt s =
      .next (raise (.ioFailure c) ((promptedAndRead prompt s).withEchoAnswers s.nextEcho.2)) := by
  rw [serviceInWith_byte h hb, echoAndStore_fail (s := promptedAndRead prompt s) b hecho]
  rfl

theorem serviceInWith_readFails {c : Cause} (h : ∀ k < prompt.length, outAnswerAt s k = .ok)
    (hc : s.nextInput.1 = some (.fail c)) :
    serviceInWith prompt s = .next (raise (.ioFailure c) (promptedAndRead prompt s)) := by
  rw [serviceInWith_prompted h, inByte_fail (s := written _ _ s) hc]
  rfl

theorem serviceInWith_blocked (h : ∀ k < prompt.length, outAnswerAt s k = .ok) (hnone : s.nextInput.1 = none) :
    serviceInWith prompt s = .refused .inputNeverAnswered := by
  rw [serviceInWith_prompted h, inByte_blocked (s := written _ _ s) hnone]
  rfl

/-- IN ends at the first byte of its prompt whose write fails (decision D16). -/
theorem serviceInWith_promptFails {k : Nat} {c : Cause} (hk : k < prompt.length)
    (hok : ∀ m < k, outAnswerAt s m = .ok) (hfail : outAnswerAt s k = .fail c) :
    serviceInWith prompt s = .next (raise (.ioFailure c) (written (prompt.take k) (k + 1) s)) := by
  rw [serviceInWith_in_order, outBytes_fail hk hok hfail]

end

end Sys2Proof.Machine

namespace Sys2Proof.Proofs

open Sys2Proof.Machine Sys2Proof.Safety

/-- Settles O45: the row of the vector by the dispatch table; R7 and the PC by what a trap can do; completion from O21's
lemma, since a trap waits for no answer but the next one. -/
theorem trapDispatchesOnItsVector : Obligations.TrapDispatchesOnItsVector := by
  refine ⟨fun _ => decode_trap, fun v => ?_, fun s v => execTrap_eq_row v s, fun _ _ _ => exec_trap_trapped,
    fun s v hin => ?_⟩
  · match h : serviceOf v with
    | none =>
      have hv := serviceOf_eq_none_iff.1 h
      rw [trapRow_eq_trapOther hv]
      simp only [hv, if_false]
    | some .getc | some .out | some .puts | some .inp | some .putsp | some .halt =>
      obtain rfl := vector_of_serviceOf h
      rfl
  · obtain ⟨t, ht⟩ := (exec_completesOrWaits (.trap v) s).resolve_right fun ⟨_, hnone⟩ => hin hnone
    exact ⟨t, ht, (execTrap_eq_row v s).symm.trans ht, exec_trap_trapped ht⟩

/-- Settles O46, by the answers of the input stream: a byte, a failure, or none. -/
theorem getcFollowsItsRule : Obligations.GetcFollowsItsRule := by
  have hexec (s : State) : exec .trapGetc s = (inByte (link s)).finish storeByte := rfl
  refine ⟨fun _ => decode_trap_vector, fun s b hb => ?_, fun s c hc => ?_, fun s hnone => ?_⟩
  · rw [hexec, inByte_byte (s := link s) hb]
    obtain ⟨htrap, hr0, hcond, hregs, hrun, hmem⟩ := (IoOnly.inputTaken (link s)).storeByte_leaves rfl b
    exact ⟨_, rfl, htrap, hr0, hcond, hregs, hrun, hmem, rfl, ⟨rfl, rfl⟩, rfl, rfl⟩
  · rw [hexec, inByte_fail (s := link s) hc]
    obtain ⟨hfail, htrap, hcond, hregs, hmem⟩ := (IoOnly.inputTaken (link s)).raise_leaves rfl (.ioFailure c)
    exact ⟨_, rfl, hfail, htrap, hcond, hregs, hmem, rfl, ⟨rfl, rfl⟩, rfl, rfl⟩
  · rw [hexec, inByte_blocked (s := link s) hnone]
    rfl

/-- Settles O47, by the answer to the write: the byte is R0's, which the entry leaves alone. -/
theorem outFollowsItsRule : Obligations.OutFollowsItsRule := by
  have hexec (s : State) : exec .trapOut s = .next (afterWrites (outByte (lowByte (s.reg .r0)) (link s)) id) := rfl
  refine ⟨fun _ => decode_trap_vector, fun s hok => ?_, fun s c hc => ?_⟩
  · rw [hexec, outByte_ok (s := link s) _ hok]
    obtain ⟨hcond, hregs, hrun, hmem, hin, -, hecho⟩ := link_controlFrame s
    exact ⟨_, rfl, ⟨link_reg_r7 s, rfl⟩, rfl, rfl, hcond, hregs, hrun, hmem, hin, hecho⟩
  · rw [hexec, outByte_fail (s := link s) _ hc]
    obtain ⟨hcond, hregs, -, hmem, hin, -, hecho⟩ := link_controlFrame s
    exact ⟨_, rfl, ⟨rfl, rfl⟩, ⟨link_reg_r7 s, rfl⟩, rfl, rfl, hcond, hregs, hmem, hin, hecho⟩

/-- Settles O49, in the order of rule R178: after the prompt, by the answers to the read and to the echo; or at the first
byte of the prompt that fails. -/
theorem inFollowsItsRule : Obligations.InFollowsItsRule := by
  refine ⟨fun _ => decode_trap_vector, fun s hprompt => ?_, fun _ => rfl, fun s prompt k c hk hok hfail => ?_⟩
  · have hio := promptedAndRead_ioOnly params.inPrompt (link s)
    have hok : ∀ k < params.inPrompt.length, outAnswerAt (link s) k = .ok := hprompt
    refine ⟨fun b hb hecho => ?_, fun b c hb hecho => ?_, fun c hc => ?_, serviceInWith_blocked hok⟩
    · obtain ⟨htrap, hr0, hcond, hregs, hrun, hmem⟩ := (hio.echoed b).storeByte_leaves rfl b
      exact ⟨_, serviceInWith_echoed hok hb hecho, htrap, hr0, hcond, hregs, hrun, hmem, rfl,
        Supply.skip_drawn _ _ _, rfl, rfl, rfl⟩
    · obtain ⟨hfailed, htrap, hcond, hregs, hmem⟩ := (hio.withEchoAnswers _).raise_leaves rfl (.ioFailure c)
      exact ⟨_, serviceInWith_echoFails hok hb hecho, hfailed, htrap, hcond, hregs, hmem, rfl, rfl, rfl, rfl⟩
    · obtain ⟨hfailed, htrap, hcond, hregs, hmem⟩ := hio.raise_leaves rfl (.ioFailure c)
      exact ⟨_, serviceInWith_readFails hok hc, hfailed, htrap, hcond, hregs, hmem, rfl, rfl, rfl, rfl⟩
  · have hio := written_ioOnly (prompt.take k) (k + 1) (link s)
    obtain ⟨hfailed, htrap, hcond, hregs, hmem⟩ := hio.raise_leaves rfl (.ioFailure c)
    exact ⟨_, serviceInWith_promptFails hk hok hfail, hfailed, htrap, hcond, hregs, hmem, rfl, rfl, rfl, rfl⟩

/-- Settles O53: HALT's handler changes the run state alone. -/
theorem haltFollowsItsRule : Obligations.HaltFollowsItsRule := by
  refine ⟨fun _ => decode_trap_vector, fun s => ?_⟩
  obtain ⟨hcond, hregs, ⟨-, hjob⟩, hmem, hstreams⟩ := link_controlFrame s
  exact ⟨_, rfl, rfl, ⟨link_reg_r7 s, rfl⟩, hcond, hregs, hjob, hmem, hstreams⟩

/-- Settles O54: a vector that is none of the six has no row of its own, and its handler is the fatal error alone. -/
theorem unrecognizedTrapFollowsItsRule : Obligations.UnrecognizedTrapFollowsItsRule := by
  refine ⟨fun _ hop hv => (decode_trap hop).trans (trapRow_eq_trapOther hv), fun s v => ?_⟩
  obtain ⟨hfail, htrap, hcond, hregs, hmem⟩ := (IoOnly.refl (link s)).raise_leaves rfl (.unrecognizedTrap v)
  exact ⟨_, rfl, hfail, htrap, hcond, hregs, hmem, rfl, ⟨rfl, rfl⟩, rfl, rfl⟩

end Sys2Proof.Proofs

/-! PROOFS. The micro-steps of PUTS and PUTSP (rules R175 to R177, R180, assumption log 4): what one does with its word, at
a plain address and at the keyboard-status word, and by induction over the string what all of them do. -/

namespace Sys2Proof.Machine

open Sys2Proof.Safety

/-- A micro-step at the zero word: the string is over. -/
theorem stringWord_zero (j : StringJob) (s : State) : stringWord j 0 s = s.withJob none := if_pos rfl

/-- The state after a micro-step whose bytes were all written. -/
def walkedPast (bs : List Byte) (j : StringJob) (s : State) : State :=
  (written bs bs.length s).withJob (some { j with cursor := j.cursor + 1 })

/-- What a micro-step leaves: it touches the output stream and the cursor, and nothing else. -/
abbrev WalkFrame (s t : State) : Prop :=
  RegsKeptBut [] s t ∧ PcCondKept s t ∧ MemKept s t ∧ t.input = s.input ∧ EchoKept s t

theorem WalkFrame.trans {s t u : State} (h : WalkFrame s t) (h' : WalkFrame t u) : WalkFrame s u := by
  obtain ⟨hregs, ⟨hpc, hcond⟩, hmem, hin, hans, hecho⟩ := h
  obtain ⟨hregs', ⟨hpc', hcond'⟩, hmem', hin', hans', hecho'⟩ := h'
  exact ⟨fun r hr => (hregs' r hr).trans (hregs r hr), ⟨hpc'.trans hpc, hcond'.trans hcond⟩,
    fun n => (hmem' n).trans (hmem n), hin'.trans hin, hans'.trans hans, hecho'.trans hecho⟩

theorem withJob_walkFrame (s : State) (job : Option StringJob) : WalkFrame s (s.withJob job) :=
  ⟨fun _ _ => rfl, ⟨rfl, rfl⟩, fun _ => rfl, rfl, rfl, rfl⟩

theorem walkedPast_walkFrame (bs : List Byte) (j : StringJob) (s : State) : WalkFrame s (walkedPast bs j s) :=
  ⟨fun _ _ => rfl, ⟨rfl, rfl⟩, fun _ => rfl, rfl, rfl, rfl⟩

theorem raise_written_walkFrame (f : Fault) (bs : List Byte) (n : Nat) (s : State) :
    WalkFrame s (raise f (written bs n s)) :=
  ⟨fun _ _ => rfl, ⟨rfl, rfl⟩, fun _ => rfl, rfl, rfl, rfl⟩

/-- A word that is not zero gives its low byte first (rules R175, R180). -/
theorem stringBytes_length_pos (kind : StringKind) (w : Word) : 0 < (stringBytes kind w).length := by
  unfold stringBytes
  split
  · exact Nat.one_pos
  · split <;> exact Nat.succ_pos _

section
variable {bs : List Byte} {w : Word} {s : State} {j : StringJob}

theorem stringWord_ok (hw : w ≠ 0) (hbs : stringBytes j.kind w = bs) (hok : ∀ k < bs.length, outAnswerAt s k = .ok) :
    stringWord j w s = walkedPast bs j s := by
  rw [stringWord, if_neg hw, hbs, outBytes_ok hok]
  rfl

theorem stringWord_fail {k : Nat} {c : Cause} (hw : w ≠ 0) (hbs : stringBytes j.kind w = bs) (hk : k < bs.length)
    (hok : ∀ m < k, outAnswerAt s m = .ok) (hfail : outAnswerAt s k = .fail c) :
    stringWord j w s = raise (.ioFailure c) (written (bs.take k) (k + 1) s) := by
  rw [stringWord, if_neg hw, hbs, outBytes_fail hk hok hfail]
  rfl

/-- A micro-step at any address but the keyboard-status one reads the stored word. -/
theorem step_string_plain (hr : s.run = .running) (hj : s.job = some j) (ha : j.cursor ≠ params.kbsrAddr) :
    step s = .next (stringWord j (s.memAt j.cursor) s) := by
  rw [step_string hr hj, memRead_plain s ha]
  rfl

theorem step_string_zero (hr : s.run = .running) (hj : s.job = some j) (ha : j.cursor ≠ params.kbsrAddr)
    (hw : s.memAt j.cursor = 0) : step s = .next (s.withJob none) := by
  rw [step_string_plain hr hj ha, hw, stringWord_zero]

/-- A micro-step that reads a zero word changes nothing but that the string is over. -/
theorem step_string_zero_leaves (hr : s.run = .running) (hj : s.job = some j) (ha : j.cursor ≠ params.kbsrAddr)
    (hw : s.memAt j.cursor = 0) :
    ∃ t, step s = .next t ∧ t.job = none ∧ t.run = .running ∧ RegsKeptBut [] s t ∧ PcCondKept s t ∧ MemKept s t ∧
      StreamsKept s t :=
  ⟨_, step_string_zero hr hj ha hw, rfl, hr, fun _ _ => rfl, ⟨rfl, rfl⟩, fun _ => rfl, rfl, ⟨rfl, rfl⟩, rfl, rfl⟩

theorem step_string_ok (hr : s.run = .running) (hj : s.job = some j) (ha : j.cursor ≠ params.kbsrAddr)
    (hw : s.memAt j.cursor ≠ 0) (hbs : stringBytes j.kind (s.memAt j.cursor) = bs)
    (hok : ∀ k < bs.length, outAnswerAt s k = .ok) : step s = .next (walkedPast bs j s) := by
  rw [step_string_plain hr hj ha, stringWord_ok hw hbs hok]

theorem step_string_fail {k : Nat} {c : Cause} (hr : s.run = .running) (hj : s.job = some j)
    (ha : j.cursor ≠ params.kbsrAddr) (hw : s.memAt j.cursor ≠ 0) (hbs : stringBytes j.kind (s.memAt j.cursor) = bs)
    (hk : k < bs.length) (hok : ∀ m < k, outAnswerAt s m = .ok) (hfail : outAnswerAt s k = .fail c) :
    step s = .next (raise (.ioFailure c) (written (bs.take k) (k + 1) s)) := by
  rw [step_string_plain hr hj ha, stringWord_fail hw hbs hk hok hfail]

/-- A micro-step that fails at the low byte of its word, which is the first written: nothing is emitted. -/
theorem step_string_firstFails {c : Cause} (hr : s.run = .running) (hj : s.job = some j) (ha : j.cursor ≠ params.kbsrAddr)
    (hw : s.memAt j.cursor ≠ 0) (hc : outAnswerAt s 0 = .fail c) :
    ∃ t, step s = .next t ∧ FailedWith (.ioFailure c) t ∧ t.output = s.output ∧ WalkFrame s t := by
  have hstep := step_string_fail hr hj ha hw rfl (stringBytes_length_pos _ _) (by simp) hc
  exact ⟨_, hstep, ⟨rfl, rfl⟩, List.append_nil _, raise_written_walkFrame _ _ _ s⟩

/-- A micro-step at the keyboard-status word that gets a byte walks past the status word (rule R176). -/
theorem step_string_keyboard {b : Byte} (hr : s.run = .running) (hj : s.job = some j) (ha : j.cursor = params.kbsrAddr)
    (hb : s.nextInput.1 = some (.byte b)) : step s = .next (stringWord j (statusWord b) (afterKeyboardRead b s)) := by
  rw [step_string hr hj, ha, memRead_byte hb]
  rfl

end

/-- What a micro-step at the keyboard-status word leaves: the read takes an answer and updates the device, and the rest is
as at any other word (rules R53, R176). -/
theorem WalkFrame.of_afterKeyboardRead {b : Byte} {s t : State} (h : WalkFrame (afterKeyboardRead b s) t) :
    RegsKeptBut [] s t ∧ PcCondKept s t ∧ KeyboardUpdated b s t ∧ t.input = s.nextInput.2 ∧ EchoKept s t := by
  obtain ⟨hregs, ⟨hpc, hcond⟩, hmem, hin, hans, hecho⟩ := h
  have hio := afterKeyboardRead_ioOnly b s
  obtain ⟨hin', -, hans', hecho'⟩ := afterKeyboardRead_inputTaken b s
  obtain ⟨⟨hstatus, hdata⟩, hothers⟩ := afterKeyboardRead_updated b s
  exact ⟨fun r hr => (hregs r hr).trans (hio.reg r), ⟨hpc.trans hio.pc, hcond.trans hio.cond⟩,
    ⟨⟨(hmem _).trans hstatus, (hmem _).trans hdata⟩, fun n hn => (hmem n).trans (hothers n hn)⟩, hin.trans hin',
    hans.trans hans', hecho.trans hecho'⟩

theorem afterKeyboardRead_outputKept (b : Byte) (s : State) : OutputKept s (afterKeyboardRead b s) := by
  obtain ⟨-, hout, -⟩ := afterKeyboardRead_inputTaken b s
  exact hout

/-- Reading the keyboard leaves the answers to come on the output stream. -/
theorem outAnswerAt_afterKeyboardRead (b : Byte) (s : State) (k : Nat) :
    outAnswerAt (afterKeyboardRead b s) k = outAnswerAt s k := by
  rw [outAnswerAt, (afterKeyboardRead_outputKept b s).1, outAnswerAt]

/-- The bytes of the available status word (the spec's decision D6). -/
theorem stringBytes_statusWord (kind : StringKind) {b : Byte} (h : b ≠ 0) :
    stringBytes kind (statusWord b) = statusBytes kind := by
  rw [statusWord, if_neg h]
  cases kind <;> decide

theorem statusWord_ne_zero {b : Byte} (h : b ≠ 0) : statusWord b ≠ 0 := by
  rw [statusWord, if_neg h]
  decide

/-- After `n` draws the answers still to come are those after the first `n`. -/
theorem answerAt_skip {α : Type} (free : Nat → α) (q : Supply α) (n k : Nat) :
    answerAt free (q.skip free n) k = answerAt free q (n + k) := by
  induction n generalizing q with
  | zero => rw [Supply.skip, Nat.zero_add]
  | succ n ih => rw [Supply.skip, ih, answerAt_draw, Nat.add_right_comm]

theorem outAnswerAt_walkedPast (bs : List Byte) (j : StringJob) (s : State) (k : Nat) :
    outAnswerAt (walkedPast bs j s) k = outAnswerAt s (bs.length + k) :=
  answerAt_skip _ _ _ _

/-- The words of a string stand in memory from an address on, none of them zero, with a zero word after them; the string
does not run over the keyboard-status word. -/
def StringAt (s : State) (a : Word) (ws : List Word) : Prop :=
  a ≠ params.kbsrAddr ∧
    match ws with
    | [] => s.memAt a = 0
    | w :: rest => w ≠ 0 ∧ s.memAt a = w ∧ StringAt s (a + 1) rest

theorem stringAt_of_words {s : State} {a : Word} {ws : List Word}
    (hdev : ∀ k : Nat, k ≤ ws.length → a + BitVec.ofNat 16 k ≠ params.kbsrAddr)
    (hws : ∀ k : Nat, ∀ h : k < ws.length, ws[k] ≠ 0 ∧ s.memAt (a + BitVec.ofNat 16 k) = ws[k])
    (hend : s.memAt (a + BitVec.ofNat 16 ws.length) = 0) : StringAt s a ws := by
  induction ws generalizing a with
  | nil => exact ⟨by simpa using hdev 0 (Nat.le_refl _), by simpa using hend⟩
  | cons w rest ih =>
    have hshift (k : Nat) : a + 1 + BitVec.ofNat 16 k = a + BitVec.ofNat 16 (k + 1) := by
      rw [BitVec.add_assoc, Nat.add_comm k 1, BitVec.ofNat_add]
      rfl
    obtain ⟨hne, hw⟩ := hws 0 (Nat.succ_pos _)
    refine ⟨by simpa using hdev 0 (Nat.zero_le _), hne, by simpa using hw, ih (fun k hk => ?_) (fun k hk => ?_) ?_⟩
    · rw [hshift]
      exact hdev (k + 1) (Nat.succ_le_succ hk)
    · rw [hshift]
      exact hws (k + 1) (Nat.succ_lt_succ hk)
    · rw [hshift]
      exact hend

theorem StringAt.congr {s t : State} (hmem : MemKept s t) {a : Word} {ws : List Word} (h : StringAt s a ws) :
    StringAt t a ws := by
  induction ws generalizing a with
  | nil =>
    obtain ⟨ha, hzero⟩ := h
    exact ⟨ha, (hmem a.toNat).trans hzero⟩
  | cons w rest ih =>
    obtain ⟨ha, hne, hw, hrest⟩ := h
    exact ⟨ha, hne, (hmem a.toNat).trans hw, ih hrest⟩

theorem coreRun_succ_of_step (M : Host.Core) (n : Nat) {s t : M.State} (h : M.step s = .next t) :
    M.run (n + 1) s = M.run n t := by
  rw [Host.Core.run, h]

/-- By induction over the string: one micro-step per word emits its bytes, and one more ends the string. -/
theorem run_stringAt {s : State} {kind : StringKind} {a : Word} {ws : List Word} (hr : s.run = .running)
    (hj : s.job = some { kind := kind, cursor := a }) (hws : StringAt s a ws)
    (hok : ∀ m < (ws.flatMap (stringBytes kind)).length, outAnswerAt s m = .ok) :
    ∃ t : State, Host.Core.run core (ws.length + 1) s = .next t ∧
      t.output = s.output ++ ws.flatMap (stringBytes kind) ∧ t.job = none ∧ t.run = .running ∧ WalkFrame s t := by
  induction ws generalizing s a with
  | nil =>
    obtain ⟨ha, hzero⟩ := hws
    exact ⟨_, coreRun_succ_of_step core 0 (step_string_zero hr hj ha hzero), (List.append_nil _).symm, rfl, hr,
      withJob_walkFrame s none⟩
  | cons w rest ih =>
    obtain ⟨ha, hne, rfl, hrest⟩ := hws
    rw [List.flatMap_cons, List.length_append] at hok
    have hstep := step_string_ok hr hj ha hne rfl fun k hk => hok k (Nat.lt_add_right _ hk)
    have hframe := walkedPast_walkFrame (stringBytes kind (s.memAt a)) { kind := kind, cursor := a } s
    have ⟨_, _, hmem, _⟩ := hframe
    obtain ⟨t, ht, hout, hjob, hrun, hwalk⟩ := ih (s := walkedPast _ _ s) hr rfl (hrest.congr hmem) fun m hm => by
      rw [outAnswerAt_walkedPast]
      exact hok _ (Nat.add_lt_add_left hm _)
    refine ⟨t, (coreRun_succ_of_step core _ hstep).trans ht, ?_, hjob, hrun, WalkFrame.trans hframe hwalk⟩
    rw [hout, List.flatMap_cons, ← List.append_assoc]
    rfl

/-- The entry of PUTS and PUTSP sets the cursor to R0, which the link write leaves (rules R170, R175). -/
theorem serviceString_entry (kind : StringKind) (s : State) :
    ∃ t, serviceString kind (trapEntry s) = .next t ∧ t.job = some { kind := kind, cursor := s.reg .r0 } ∧ Trapped s t ∧
      t.run = s.run ∧ t.cond = s.cond ∧ RegsKeptBut [.r7] s t ∧ MemKept s t ∧ StreamsKept s t := by
  obtain ⟨hcond, hregs, ⟨hrun, -⟩, hmem, hstreams⟩ := link_controlFrame s
  exact ⟨_, rfl, rfl, ⟨link_reg_r7 s, rfl⟩, hrun, hcond, hregs, hmem, hstreams⟩

end Sys2Proof.Machine

namespace Sys2Proof.Proofs

open Sys2Proof.Machine Sys2Proof.Safety

/-- Settles O48: the entry sets the cursor, and a micro-step's word gives its low byte. -/
theorem putsFollowsItsRule : Obligations.PutsFollowsItsRule := by
  refine ⟨fun _ => decode_trap_vector, serviceString_entry .puts, fun s a hr hj ha =>
    ⟨step_string_zero_leaves hr hj ha, fun hw hok => ?_, fun c hw hc =>
      step_string_firstFails hr hj ha hw ((nextOut_fst s).symm.trans hc)⟩⟩
  rw [nextOut_fst] at hok
  have hstep := step_string_ok hr hj ha hw (bs := [_]) rfl (by simpa using hok)
  exact ⟨_, hstep, rfl, rfl, rfl, hr, walkedPast_walkFrame _ _ s⟩

/-- Settles O50: as O48, but the word's high byte follows its low byte unless it is zero. -/
theorem putspFollowsItsRule : Obligations.PutspFollowsItsRule := by
  refine ⟨fun _ => decode_trap_vector, serviceString_entry .putsp, fun s a hr hj ha =>
    ⟨step_string_zero_leaves hr hj ha, fun hw hhigh hok => ?_, fun hw hhigh hok0 hok1 => ?_,
      fun c hw => step_string_firstFails hr hj ha hw, fun c hw hhigh hok hc => ?_⟩⟩
  · have hstep := step_string_ok hr hj ha hw (if_pos hhigh) (by simpa using hok)
    exact ⟨_, hstep, rfl, rfl, hr, walkedPast_walkFrame _ _ s⟩
  · have hstep := step_string_ok hr hj ha hw (if_neg hhigh) fun
      | 0, _ => hok0
      | 1, _ => hok1
    exact ⟨_, hstep, rfl, rfl, hr, walkedPast_walkFrame _ _ s⟩
  · have hstep := step_string_fail hr hj ha hw (if_neg hhigh) (by simp) (by simpa using hok) hc
    exact ⟨_, hstep, ⟨rfl, rfl⟩, rfl, raise_written_walkFrame _ _ _ s⟩

/-- Settles O51: the word read is the status word, so its bytes are known; the read itself may fail or never be answered. -/
theorem aStringReadsTheKeyboardToo : Obligations.AStringReadsTheKeyboardToo := by
  refine fun s kind hr hj => ⟨fun hb => ?_, fun b hne hb hok => ?_, fun b k c hne hb hk hok hfail => ?_, fun c hc => ?_,
    fun hnone => ?_⟩
  · obtain ⟨hregs, hpc, hkbd, hin, hecho⟩ := (withJob_walkFrame (afterKeyboardRead 0 s) none).of_afterKeyboardRead
    have hstep := step_string_keyboard hr hj rfl hb
    rw [show statusWord 0 = 0 from rfl, stringWord_zero] at hstep
    exact ⟨_, hstep, rfl, (afterKeyboardRead_ioOnly 0 s).run.trans hr, hregs, hpc, hkbd, hin,
      afterKeyboardRead_outputKept 0 s, hecho⟩
  · obtain ⟨hans, hout⟩ := afterKeyboardRead_outputKept b s
    have hstep := step_string_keyboard hr hj rfl hb
    rw [stringWord_ok (statusWord_ne_zero hne) (stringBytes_statusWord kind hne)
      fun k hk => (outAnswerAt_afterKeyboardRead b s k).trans (hok k hk)] at hstep
    refine ⟨_, hstep, congrArg (· ++ _) hout, ?_, rfl, (afterKeyboardRead_ioOnly b s).run.trans hr,
      (walkedPast_walkFrame _ _ _).of_afterKeyboardRead⟩
    rw [← hans]
    exact Supply.skip_drawn _ _ _
  · obtain ⟨-, hout⟩ := afterKeyboardRead_outputKept b s
    have hstep := step_string_keyboard hr hj rfl hb
    rw [stringWord_fail (statusWord_ne_zero hne) (stringBytes_statusWord kind hne) hk
      (fun m hm => (outAnswerAt_afterKeyboardRead b s m).trans (hok m hm))
      ((outAnswerAt_afterKeyboardRead b s k).trans hfail)] at hstep
    exact ⟨_, hstep, ⟨rfl, rfl⟩, congrArg (· ++ _) hout, (raise_written_walkFrame _ _ _ _).of_afterKeyboardRead⟩
  · rw [step_string hr hj, memRead_fail hc]
    exact ⟨_, rfl, stoppedAtRead_raise c s⟩
  · rw [step_string hr hj, memRead_blocked hnone]
    rfl

/-- Settles O52, by the induction of `run_stringAt` over the string. -/
theorem aWholeStringIsEmitted : Obligations.AWholeStringIsEmitted :=
  fun _ _ _ _ hr hj hdev hws hend hok => run_stringAt hr hj (stringAt_of_words hdev hws hend) hok

end Sys2Proof.Proofs

/-! PROOFS. The unimplemented opcodes (rules R200, R201) and the fatal errors (rules R202, R211, R213): which answer of a
stream fails an operation, which fault an instruction can raise, and where a step that fails leaves the PC. -/

namespace Sys2Proof

open Machine Sys2Proof.Safety

theorem decode_rti {w : Word} (h : opAt w = params.opcode .rti) : decode w = .rti := by
  rw [decode, opcodeOf_opField h]

theorem decode_reserved {w : Word} (h : opAt w = params.opcode .reserved) : decode w = .reserved := by
  rw [decode, opcodeOf_opField h]

end Sys2Proof

namespace Sys2Proof.Machine

open Sys2Proof.Safety

/-- A fatal error leaves everything but the run state and the string in progress as it was (rules R119, R210). -/
theorem raise_leaves (f : Fault) (s : State) :
    FailedWith f (raise f s) ∧ RegsKeptBut [] s (raise f s) ∧ PcCondKept s (raise f s) ∧ MemKept s (raise f s) ∧
      StreamsKept s (raise f s) :=
  ⟨⟨rfl, rfl⟩, fun _ _ => rfl, ⟨rfl, rfl⟩, fun _ => rfl, rfl, ⟨rfl, rfl⟩, rfl, rfl⟩

/-- A stream answers the failure: the next input answer, an output answer still to come, or the next echo answer (rules
R211, R213). -/
abbrev StreamFails (c : Cause) (s : State) : Prop :=
  s.nextInput.1 = some (.fail c) ∨ (∃ k, outAnswerAt s k = .fail c) ∨ s.nextEcho.1 = .fail c

/-- The run state is as it was, or FAILED with a cause that a stream answered. -/
abbrev GoesOnOrStreamFails (s t : State) : Prop :=
  t.run = s.run ∨ ∃ c, StreamFails c s ∧ t.run = .failed (.ioFailure c)

/-- Of the next `n` answers to writes either all are Ok or there is a first failure. -/
theorem outAnswers_ok_or_firstFails (s : State) (n : Nat) :
    (∀ k < n, outAnswerAt s k = .ok) ∨
      ∃ k c, k < n ∧ (∀ m < k, outAnswerAt s m = .ok) ∧ outAnswerAt s k = .fail c := by
  induction n with
  | zero => exact .inl fun k hk => absurd hk (Nat.not_lt_zero k)
  | succ n ih =>
    obtain hok | ⟨k, c, hk, hok, hfail⟩ := ih
    · match hn : outAnswerAt s n with
      | .ok => exact .inl (Nat.forall_lt_succ_right.2 ⟨hok, hn⟩)
      | .fail c => exact .inr ⟨n, c, Nat.lt_succ_self n, hok, hn⟩
    · exact .inr ⟨k, c, Nat.lt_succ_of_lt hk, hok, hfail⟩

/-- Reading memory leaves the answers to come on the output stream, at the keyboard-status address too (rule R53). -/
theorem memRead_outAnswers {a : Word} {r : Except Cause Word} {s u : State} (h : memRead a s = .done r u) :
    u.outAnswers = s.outAnswers := by
  match r, h with
  | .ok w, h =>
    obtain ⟨-, -, rfl⟩ | ⟨-, b, -, -, rfl⟩ := memRead_ok h
    · rfl
    · exact keyboardUpdate_outAnswers b _
  | .error c, h =>
    obtain ⟨-, -, rfl⟩ := memRead_error h
    rfl

section
variable {s t : State}

theorem memRead_error_streamFails {a : Word} {c : Cause} {u : State} (h : memRead a s = .done (.error c) u) :
    StreamFails c s := by
  obtain ⟨-, hc, -⟩ := memRead_error h
  exact .inl hc

/-- LD, LDR and STI fail at their read alone (rules R151, R153, R156). -/
theorem finish_memRead_goesOnOrStreamFails {a : Word} {k : Word → State → State}
    (h : (memRead a s).finish k = .next t) (hk : ∀ w u, (k w u).run = u.run) : GoesOnOrStreamFails s t := by
  obtain ⟨w, u, hr, rfl⟩ | ⟨c, u, hr, rfl⟩ := Res.finish_next h
  · exact .inl ((hk w u).trans (IoOnly.memRead hr).run)
  · exact .inr ⟨c, memRead_error_streamFails hr, rfl⟩

/-- LDI's data read fails on the answer its pointer read left: a pointer read from the keyboard is a status word. -/
theorem execLdi_goesOnOrStreamFails {dr : Reg} {off : BitVec 9} (h : execLdi dr off s = .next t) :
    GoesOnOrStreamFails s t := by
  obtain ⟨p, u, hr, hl⟩ | ⟨c, u, hr, rfl⟩ := Res.andThen_next h
  · obtain ⟨-, -, rfl⟩ | ⟨-, b, -, rfl, -⟩ := memRead_ok hr
    · exact finish_memRead_goesOnOrStreamFails hl fun _ _ => rfl
    · rw [load, memRead_plain u (statusWord_ne_kbsrAddr b)] at hl
      obtain rfl := Host.Outcome.next.inj hl
      exact .inl (IoOnly.memRead hr).run
  · exact .inr ⟨c, memRead_error_streamFails hr, rfl⟩

theorem serviceGetc_goesOnOrStreamFails (h : serviceGetc s = .next t) : GoesOnOrStreamFails s t := by
  match hin : s.nextInput.1 with
  | none => simp [serviceGetc, inByte_blocked hin, Res.finish] at h
  | some (.byte b) =>
    rw [serviceGetc, inByte_byte hin] at h
    obtain rfl := Host.Outcome.next.inj h
    exact .inl rfl
  | some (.fail c) =>
    rw [serviceGetc, inByte_fail hin] at h
    obtain rfl := Host.Outcome.next.inj h
    exact .inr ⟨c, .inl hin, rfl⟩

theorem serviceOut_goesOnOrStreamFails (h : serviceOut s = .next t) : GoesOnOrStreamFails s t := by
  match hout : s.nextOut.1 with
  | .ok =>
    rw [serviceOut, outByte_ok _ hout] at h
    obtain rfl := Host.Outcome.next.inj h
    exact .inl rfl
  | .fail c =>
    rw [serviceOut, outByte_fail _ hout] at h
    obtain rfl := Host.Outcome.next.inj h
    exact .inr ⟨c, .inr (.inl ⟨0, (nextOut_fst s).symm.trans hout⟩), rfl⟩

/-- IN fails at a byte of its prompt, at its read or at its echo (rule R178, decision D16). -/
theorem serviceIn_goesOnOrStreamFails (h : serviceIn s = .next t) : GoesOnOrStreamFails s t := by
  rw [serviceIn] at h
  obtain hok | ⟨k, c, hk, hok, hfail⟩ := outAnswers_ok_or_firstFails s params.inPrompt.length
  · match hin : s.nextInput.1 with
    | none => simp [serviceInWith_blocked hok hin] at h
    | some (.fail c) =>
      rw [serviceInWith_readFails hok hin] at h
      obtain rfl := Host.Outcome.next.inj h
      exact .inr ⟨c, .inl hin, rfl⟩
    | some (.byte b) =>
      match hecho : s.nextEcho.1 with
      | .ok =>
        rw [serviceInWith_echoed hok hin hecho] at h
        obtain rfl := Host.Outcome.next.inj h
        exact .inl rfl
      | .fail c =>
        rw [serviceInWith_echoFails hok hin hecho] at h
        obtain rfl := Host.Outcome.next.inj h
        exact .inr ⟨c, .inr (.inr hecho), rfl⟩
  · rw [serviceInWith_promptFails hk hok hfail] at h
    obtain rfl := Host.Outcome.next.inj h
    exact .inr ⟨c, .inr (.inl ⟨k, hfail⟩), rfl⟩

theorem stringWord_goesOnOrOutFails (j : StringJob) (w : Word) (s : State) :
    (stringWord j w s).run = s.run ∨
      ∃ k c, outAnswerAt s k = .fail c ∧ (stringWord j w s).run = .failed (.ioFailure c) := by
  by_cases hw : w = 0
  · rw [hw, stringWord_zero]
    exact .inl rfl
  · obtain hok | ⟨k, c, hk, hok, hfail⟩ := outAnswers_ok_or_firstFails s (stringBytes j.kind w).length
    · rw [stringWord_ok hw rfl hok]
      exact .inl rfl
    · rw [stringWord_fail hw rfl hk hok hfail]
      exact .inr ⟨k, c, hfail, rfl⟩

/-- A micro-step of a string fails at its read or at one of its writes. -/
theorem stringStep_goesOnOrStreamFails {j : StringJob} (h : stringStep j s = .next t) : GoesOnOrStreamFails s t := by
  obtain ⟨w, u, hr, rfl⟩ | ⟨c, u, hr, rfl⟩ := Res.finish_next h
  · obtain hrun | ⟨k, c, hfail, hrun⟩ := stringWord_goesOnOrOutFails j w u
    · exact .inl (hrun.trans (IoOnly.memRead hr).run)
    · rw [outAnswerAt, memRead_outAnswers hr] at hfail
      exact .inr ⟨c, .inr (.inl ⟨k, hfail⟩), hrun⟩
  · exact .inr ⟨c, memRead_error_streamFails hr, rfl⟩

end

/-- Why an instruction may fail, and with what (rules R183, R200, R201, R213). -/
inductive FaultCause (i : Instr) (s : State) : Fault → Prop
  | rti : i = .rti → FaultCause i s (.unhandledOpcode (params.opcode .rti))
  | reserved : i = .reserved → FaultCause i s (.unhandledOpcode (params.opcode .reserved))
  | noHandler {v : BitVec 8} : i = .trapOther v → FaultCause i s (.unrecognizedTrap v)
  | stream {c : Cause} : StreamFails c s → FaultCause i s (.ioFailure c)

section
variable {i : Instr} {s t : State} {f : Fault}

/-- Where the machine goes on or a stream fails, a fault is the stream's. -/
theorem GoesOnOrStreamFails.cause (h : GoesOnOrStreamFails s t) (hr : s.run = .running) (ht : t.run = .failed f) :
    ∃ c, f = .ioFailure c ∧ StreamFails c s := by
  obtain e | ⟨c, hc, e⟩ := h
  · simp [e, hr] at ht
  · exact ⟨c, RunState.failed.inj (ht.symm.trans e), hc⟩

theorem exec_fault (hi : ∀ v, i ≠ .trap v) (hr : s.run = .running) (h : exec i s = .next t) (ht : t.run = .failed f) :
    FaultCause i s f := by
  have of_goesOn (hs : GoesOnOrStreamFails s t) : FaultCause i s f := by
    obtain ⟨c, rfl, hc⟩ := hs.cause hr ht
    exact .stream hc
  cases i with
  | addReg | addImm | andReg | andImm | not | lea | jmp | jsr | jsrr | st | str | trapPuts | trapPutsp =>
    obtain rfl := Host.Outcome.next.inj h
    exact of_goesOn (.inl rfl)
  | br n z p off =>
    obtain rfl := Host.Outcome.next.inj h
    exact of_goesOn (.inl (by split <;> rfl))
  | ld | ldr | sti => exact of_goesOn (finish_memRead_goesOnOrStreamFails h fun _ _ => rfl)
  | ldi => exact of_goesOn (execLdi_goesOnOrStreamFails h)
  | trap v => exact absurd rfl (hi v)
  | trapGetc => exact of_goesOn (serviceGetc_goesOnOrStreamFails (s := link s) h)
  | trapOut => exact of_goesOn (serviceOut_goesOnOrStreamFails (s := link s) h)
  | trapIn => exact of_goesOn (serviceIn_goesOnOrStreamFails (s := link s) h)
  | trapHalt =>
    obtain rfl := Host.Outcome.next.inj h
    simp at ht
  | trapOther v =>
    obtain rfl := Host.Outcome.next.inj h
    obtain rfl := RunState.failed.inj ht
    exact .noHandler rfl
  | rti =>
    obtain rfl := Host.Outcome.next.inj h
    obtain rfl := RunState.failed.inj ht
    exact .rti rfl
  | reserved =>
    obtain rfl := Host.Outcome.next.inj h
    obtain rfl := RunState.failed.inj ht
    exact .reserved rfl

/-- An instruction that fails leaves the PC it runs at: of the endings of an instruction only FAILED fails (rule R25). -/
theorem exec_failed_pc (hr : s.run = .running) (h : exec i s = .next t) (ht : t.run = .failed f) : t.pc = s.pc := by
  obtain ⟨u, hu, he⟩ := exec_ends h
  have hrun : u.run = .running := by rw [hu.run, opening_run, hr]
  cases he with
  | failed => exact hu.pc.trans (opening_pc i s)
  | halted => simp at ht
  | result | stored | jumped | walks | done => simp [hrun] at ht

/-- The instruction fetched from the status word fails as RTI, if at all: a BR with an empty mask goes on (rule R112). -/
theorem exec_statusWord_fault {b : Byte} (hr : s.run = .running) (h : exec (decode (statusWord b)) s = .next t)
    (ht : t.run = .failed f) : f = .unhandledOpcode (params.opcode .rti) := by
  obtain e | e := decode_statusWord b
  · rw [e, exec_br_never] at h
    obtain rfl := Host.Outcome.next.inj h
    simp [hr] at ht
  · rw [e] at h
    obtain rfl := Host.Outcome.next.inj h
    exact (RunState.failed.inj ht).symm

/-- Why a step may fail, and where it leaves the PC: a string's micro-step or the fetch at a stream, the status word's RTI,
or the instruction at the PC. -/
inductive StepFault (s t : State) : Fault → Prop
  | walk {c : Cause} : s.job ≠ none → t.pc = s.pc → StreamFails c s → StepFault s t (.ioFailure c)
  | fetch {c : Cause} : s.job = none → s.pc = params.kbsrAddr → t.pc = s.pc → StreamFails c s →
      StepFault s t (.ioFailure c)
  | statusWord : s.job = none → s.pc = params.kbsrAddr → t.pc = s.pc + 1 →
      StepFault s t (.unhandledOpcode (params.opcode .rti))
  | ran {f : Fault} : s.job = none → s.pc ≠ params.kbsrAddr → t.pc = s.pc + 1 →
      exec (decode (s.memAt s.pc)) (advance s) = .next t → FaultCause (decode (s.memAt s.pc)) (advance s) f → StepFault s t f

theorem step_fault (h : step s = .next t) (ht : t.run = .failed f) : StepFault s t f := by
  have hr := step_next_running h
  cases step_ends h with
  | walked _ hu => simp [hu.run, hr] at ht
  | walkFailed hj hu =>
    rw [step_string hr hj] at h
    obtain ⟨c, rfl, hc⟩ := (stringStep_goesOnOrStreamFails h).cause hr ht
    exact .walk (by simp [hj]) hu.pc hc
  | fetchFailed hj hpc hc =>
    obtain rfl := RunState.failed.inj ht
    exact .fetch hj hpc rfl (.inl hc)
  | @ran w u _ hj hw hx =>
    have hu := IoOnly.memRead hw
    have hrun : (advance u).run = .running := hu.run.trans hr
    have hpc : t.pc = s.pc + 1 := (exec_failed_pc hrun hx ht).trans (congrArg (· + 1) hu.pc)
    obtain ⟨hne, rfl, rfl⟩ | ⟨hdev, b, -, rfl, -⟩ := memRead_ok hw
    · exact .ran hj hne hpc hx (exec_fault (decode_wellFormed _).2 hrun hx ht)
    · obtain rfl := exec_statusWord_fault hrun hx ht
      exact .statusWord hj hdev hpc

end

end Sys2Proof.Machine

namespace Sys2Proof.Proofs

open Sys2Proof.Machine Sys2Proof.Safety

/-- Settles O55: decoding reads the opcode alone, and the dispatch raises the fatal error at once. -/
theorem rtiFollowsItsRule : Obligations.RtiFollowsItsRule :=
  ⟨fun _ => decode_rti, fun s => ⟨_, rfl, raise_leaves _ s⟩⟩

/-- Settles O56: as O55, for the reserved opcode. -/
theorem reservedOpcodeFollowsItsRule : Obligations.ReservedOpcodeFollowsItsRule :=
  ⟨fun _ => decode_reserved, fun s => ⟨_, rfl, raise_leaves _ s⟩⟩

/-- Settles O29, by the four places where a step fails. -/
theorem fatalErrorsHaveTheirCauses : Obligations.FatalErrorsHaveTheirCauses := by
  refine fun s t _ h => ⟨fun op ht => ?_, fun v ht => ?_, fun c ht => ?_⟩
  · cases step_fault h ht with
    | statusWord hj hpc hnext => exact ⟨hj, hnext, .inr ⟨hpc, rfl⟩⟩
    | ran hj hpc hnext _ hcause =>
      cases hcause with
      | rti hdec => exact ⟨hj, hnext, .inl ⟨hpc, .inl ⟨hdec, rfl⟩⟩⟩
      | reserved hdec => exact ⟨hj, hnext, .inl ⟨hpc, .inr ⟨hdec, rfl⟩⟩⟩
  · cases step_fault h ht with
    | ran hj hpc _ hx hcause =>
      cases hcause with
      | noHandler hdec =>
        rw [hdec] at hx
        obtain rfl := Host.Outcome.next.inj hx
        exact ⟨hj, hpc, hdec, link_reg_r7 (advance s), rfl⟩
  · cases step_fault h ht with
    | walk hj hkept hc => exact ⟨hc, fun hn => absurd hn hj, fun hn => absurd hn hj, fun _ => hkept⟩
    | fetch hj hpc hkept hc => exact ⟨hc, fun _ _ => hkept, fun _ hne => absurd hpc hne, fun hne => absurd hj hne⟩
    | ran hj hpc hnext _ hcause =>
      cases hcause with
      | stream hc => exact ⟨hc, fun _ he => absurd he hpc, fun _ _ => hnext, fun hne => absurd hj hne⟩

end Sys2Proof.Proofs
